-- ==== Sys2Proof/Word.lean ====
section
/-! DEFINITION. The word, the byte and the register index of the LC3_VM execution unit (00_scope.md R5, R9; 10_state.md R20). -/

namespace Sys2Proof

/-- A register's or a memory cell's contents: 16 bits (R5, R9). -/
abbrev Word := BitVec 16

/-- A console character: 8 bits (10_state.md R37, R38). -/
abbrev Byte := BitVec 8

/-- The index of a general register, R0 to R7 (R20). -/
abbrev Reg := Fin 8

end Sys2Proof
end

