-- ==== Sys2Proof/Config.lean ====
section
/-! DEFINITION. What is fixed for the hardware (00_scope.md R5) and the two texts the spec leaves open (R6). -/

namespace Sys2Proof

/-- The address of the first fetch, whatever the image's origin (70_reset_and_hazards.md R240, 20_memory.md R57). -/
def Config.entryAddress : Word := 0x3000#16

/-- How many cells memory has (20_memory.md R50). -/
def Config.memoryWords : Nat := 65536

/-- The parameter IN_PROMPT of R6, a finite byte string the spec does not give. No body: nothing in Lean knows a
value of it. DESIGN CHOICE (log 5): it is what `State.reset` puts in `promptText`. Safe. -/
opaque Config.inPrompt : List Byte

/-- The parameter HALT_NOTICE of R6, as `Config.inPrompt`. DESIGN CHOICE (log 5). Safe. -/
opaque Config.haltNotice : List Byte

end Sys2Proof
end

