-- ==== Sys2Proof/Machine/State.lean ====
section
/-! DEFINITION. The machine's state as 10_state.md R35 closes it, the reasons a step can stop, and the state after reset
(70_reset_and_hazards.md R240). Everything is plain data. -/

namespace Sys2Proof.Machine

/-- The condition-flag register: exactly one of NEGATIVE, ZERO, POSITIVE holds (R26), so no other value can be written
down. `Cond.bits` (Flags.lean) gives the 3-bit one-hot word. -/
inductive Cond where
  | n | z | p
  deriving DecidableEq, Repr

/-- The engine state (R32). All but `running` are terminal. -/
inductive EState where
  | running | halted | faulted | aborted
  deriving DecidableEq, Repr

/-- What can be recorded in `fault_cause` (60_exceptions.md R200); the codes are `FaultCause.code` (Ops.lean). -/
inductive FaultCause where
  | illegalRti | illegalReserved | illegalTrap | inputEof
  deriving DecidableEq, Repr

/-- The dispatcher's state with its latches (10_state.md R34, 43_trap.md R151). -/
inductive DState where
  | idle
  | getcWait
  | outEmit
  /-- PUTS_SCAN with the scan address. -/
  | putsScan (a : Word)
  /-- IN_PROMPT with the index of the next prompt byte. -/
  | inPrompt (i : Nat)
  | inWait
  /-- IN_ECHO with the byte read. -/
  | inEcho (b : Byte)
  /-- PUTSP_LO with the scan address. -/
  | putspLo (a : Word)
  /-- PUTSP_HI with the scan address and the cell read there. -/
  | putspHi (a c : Word)
  /-- HALT_NOTICE with the index of the next notice byte. -/
  | haltNotice (i : Nat)
  deriving DecidableEq, Repr

/-- What the host delivers at the console input port: a byte, or END-OF-INPUT (R37). -/
inductive Delivery where
  | byte (b : Byte)
  | endOfInput
  deriving DecidableEq, Repr

/-- One cell of memory that is listed: its address and its 16-bit value. The cell, not the byte, is what the hardware
addresses (20_memory.md R50, R54; log 1). -/
abbrev Cell := Nat × Word

/-- Memory: the cells that do not hold 0x0000, by rising address. An unlisted address reads as 0x0000, its value at
reset (R59). -/
structure Memory where
  cells : List Cell
  deriving DecidableEq, Repr

/-- Memory right after reset, before loading (R59). -/
def Memory.empty : Memory := ⟨[]⟩

/-- What a listed cell may be: an address that exists (R50) and a value other than an unlisted address's. -/
def Memory.cellOk (c : Cell) : Bool := decide (c.1 < Config.memoryWords) && decide (c.2 ≠ 0#16)

/-- The addresses rise strictly. -/
def Memory.rising : List Cell → Bool
  | [] => true
  | [_] => true
  | a :: b :: rest => decide (a.1 < b.1) && Memory.rising (b :: rest)

/-- The canonical form, so that equal memories are equal data. -/
def Memory.wf (m : Memory) : Bool := Memory.rising m.cells && m.cells.all Memory.cellOk

/-- The state (R35). The last four fields are the model's own: they hold what the host supplies (R6, R37, R39). -/
@[ext]
structure State where
  /-- R0 to R7 (R20). -/
  regs : Vector Word 8
  /-- The program counter (R23). -/
  pc : Word
  /-- The condition-flag register COND (R26). -/
  cond : Cond
  /-- The instruction register (R30). -/
  ir : Word
  /-- The engine state (R32). -/
  estate : EState
  /-- `fault_cause` of the fault record (R33). -/
  faultCause : BitVec 4
  /-- `fault_pc` of the fault record (R33). -/
  faultPc : Word
  /-- `fault_ir` of the fault record (R33). -/
  faultIr : Word
  /-- The dispatcher state (R34). -/
  dstate : DState
  /-- Memory (20_memory.md R50). -/
  mem : Memory
  /-- The consumed prefix of the console input, oldest byte first (R35). -/
  consumed : List Byte
  /-- The emitted console output, oldest byte first (R35, R38). -/
  output : List Byte
  /-- Deliveries at the input port that no `Receive` has taken yet, oldest first (R37; log 6). -/
  input : List Delivery
  /-- The parameter IN_PROMPT (R6; log 5). No step writes it. -/
  promptText : List Byte
  /-- The parameter HALT_NOTICE (R6; log 5). No step writes it. -/
  noticeText : List Byte
  /-- How many more steps run before the host's `abort` is taken, none if it never comes (R39; log 7). -/
  abortAfter : Option Nat
  deriving DecidableEq, Repr

/-- Why the machine has no step (70_reset_and_hazards.md R246). No instruction's meaning answers any of these: the recorded
faults of R200 are next states with `estate` FAULTED. -/
inductive Fault where
  /-- `step`, in estate HALTED, which has no outgoing transition (R32). Safe. -/
  | engineHalted
  /-- `step`, in estate FAULTED (R32). Safe. -/
  | engineFaulted
  /-- `step`, in estate ABORTED (R32). Safe. -/
  | engineAborted
  /-- `step`, in GETC_WAIT or IN_WAIT with no delivery at the port and no abort to come: the machine waits (43_trap.md R161,
  93_implementation_defined.md U12 `stuck`). Safe. -/
  | awaitingInput
  deriving DecidableEq, Repr

/-- Why an instruction has no meaning. Every instruction has one, so nothing raises it. -/
inductive Refusal where
  /-- An arm of `exec` with no meaning yet. No arm is left with it. Safe. -/
  | notModelled (mnemonic : String)
  deriving DecidableEq, Repr

/-- What one step, or one instruction's meaning, answers. -/
abbrev Result := Host.Outcome State Fault Refusal

/-- The open parameters of 00_scope.md R6, as one argument of the launch, with the host's abort schedule (R39). -/
structure Params where
  /-- GPR_RESET (R31). -/
  gprReset : Vector Word 8
  /-- COND_RESET (R29). -/
  condReset : Cond
  /-- IN_PROMPT. -/
  inPrompt : List Byte
  /-- HALT_NOTICE. -/
  haltNotice : List Byte
  /-- INPUT, as far as it is delivered. -/
  input : List Delivery
  /-- When the host aborts. -/
  abortAfter : Option Nat
  deriving DecidableEq, Repr

/-- The state at the first fetch, for every value of the open parameters and every loaded memory (R240). `ir` is unspecified
there and read by nothing before the first fetch (R30): DESIGN CHOICE 0x0000 (log 4). -/
def State.resetWith (p : Params) (m : Memory) : State :=
  { regs := p.gprReset
    pc := Config.entryAddress
    cond := p.condReset
    ir := 0#16
    estate := .running
    faultCause := 0#4
    faultPc := 0#16
    faultIr := 0#16
    dstate := .idle
    mem := m
    consumed := []
    output := []
    input := p.input
    promptText := p.inPrompt
    noticeText := p.haltNotice
    abortAfter := p.abortAfter }

/-- The parameters of `State.reset`. DESIGN CHOICE: registers zero (log 2, unsafe), flag Z (log 3, unsafe), no delivery and no
abort yet (log 6, 7); the two texts are opaque (log 5). -/
def Params.chosen : Params :=
  { gprReset := Vector.replicate 8 0#16
    condReset := .z
    inPrompt := Config.inPrompt
    haltNotice := Config.haltNotice
    input := []
    abortAfter := none }

/-- The machine right after reset, with an image that loads nothing (R240, R59; log 12). -/
def State.reset : State := State.resetWith Params.chosen Memory.empty

end Sys2Proof.Machine
end

