-- ==== Sys2Proof/Machine/Ops.lean ====
section
/-! DEFINITION. The named operations over registers, memory, console, engine and dispatcher state; fetching; raising a fault
(60_exceptions.md R201), which is this hardware's one way of taking an exception. There is no return from one: a fault is
terminal (10_state.md R32) and RTI is illegal (R207). -/

namespace Sys2Proof.Machine

/-! ### Memory (20_memory.md R50 to R52) -/

/-- The value at an address of a list of cells; 0x0000 where none is listed (R59). -/
def Memory.lookup (a : Nat) : List Cell → Word
  | [] => 0#16
  | c :: rest => if c.1 = a then c.2 else Memory.lookup a rest

/-- `Mem[a]` (R52). -/
def Memory.get (m : Memory) (a : Nat) : Word := Memory.lookup a m.cells

/-- A cell put at its place among cells of rising address. -/
def Memory.insertCell (a : Nat) (v : Word) : List Cell → List Cell
  | [] => [(a, v)]
  | c :: rest => if a < c.1 then (a, v) :: c :: rest else c :: Memory.insertCell a v rest

/-- `Mem[a] <- v` in canonical form: the old entry goes, a new one comes unless `v` is what an unlisted address reads as. -/
def Memory.set (m : Memory) (a : Nat) (v : Word) : Memory :=
  if v = 0#16 then ⟨m.cells.filter (fun c => c.1 ≠ a)⟩
  else ⟨Memory.insertCell a v (m.cells.filter (fun c => c.1 ≠ a))⟩

/-- `MemRead(a, 1)` (R52). Every 16-bit value is a valid address (R51), and a read has no side effect (R53). -/
def State.memRead (s : State) (a : Word) : Word := s.mem.get a.toNat

/-- `MemWrite(a, 1, v)` (R52). -/
def State.memWrite (s : State) (a v : Word) : State := { s with mem := s.mem.set a.toNat v }

/-! ### Registers (10_state.md R20 to R30) -/

/-- `x[r]`. No register is hardwired (R21). -/
def State.reg (s : State) (r : Reg) : Word := s.regs.get r

/-- `x[r] <- v`. -/
def State.setReg (s : State) (r : Reg) (v : Word) : State := { s with regs := s.regs.set r.val v r.isLt }

/-- `pc <- target`. -/
def State.setPc (s : State) (target : Word) : State := { s with pc := target }

/-- `cond <- c`. -/
def State.setCond (s : State) (c : Cond) : State := { s with cond := c }

/-- `ir <- w`. -/
def State.setIr (s : State) (w : Word) : State := { s with ir := w }

/-- The link register R7 (R22). -/
def linkReg : Reg := 7

/-- The trap services' register R0 (R22). -/
def serviceReg : Reg := 0

/-! ### Engine and dispatcher (10_state.md R32, R34) -/

/-- `estate <- e`. -/
def State.setEstate (s : State) (e : EState) : State := { s with estate := e }

/-- `dstate <- d`. -/
def State.setDstate (s : State) (d : DState) : State := { s with dstate := d }

/-! ### Console (10_state.md R37, R38) -/

/-- `Emit(b)`: the byte goes to the end of the output at once (R38). -/
def State.emit (s : State) (b : Byte) : State := { s with output := s.output ++ [b] }

/-- A byte leaves the port for the consumed prefix. -/
def State.consume (s : State) (b : Byte) (rest : List Delivery) : State :=
  { s with input := rest, consumed := s.consumed ++ [b] }

/-- `Receive()`: the oldest delivery and the state after taking it, none while nothing is delivered (R37). END-OF-INPUT is no
byte: it stays at the port (log 6). -/
def State.receive (s : State) : Option (Delivery × State) :=
  match s.input with
  | [] => none
  | .byte b :: rest => some (.byte b, s.consume b rest)
  | .endOfInput :: _ => some (.endOfInput, s)

/-- The dispatcher waits in `Receive()` with nothing delivered (43_trap.md R161). -/
def State.blocked (s : State) : Bool :=
  match s.dstate with
  | .getcWait | .inWait => s.input.isEmpty
  | .idle | .outEmit | .putsScan _ | .inPrompt _ | .inEcho _ | .putspLo _ | .putspHi _ _ | .haltNotice _ => false

/-! ### Fetch (10_state.md R24) -/

/-- The fetch: `ir` takes the word at `pc`, then `pc` advances by one modulo 2^16. -/
def State.fetch (s : State) : State := (s.setIr (s.memRead s.pc)).setPc (s.pc + 1#16)

/-- A, the address the current instruction was fetched from, during execute and during the service it started: `pc` holds A + 1
then (R23, R206). DEDUCED (log 9). -/
def State.fetchAddress (s : State) : Word := s.pc - 1#16

/-! ### Raising a fault (60_exceptions.md R200, R201) -/

/-- The code of a cause in `fault_cause` (R200). -/
def FaultCause.code : FaultCause → BitVec 4
  | .illegalRti => 0x1#4
  | .illegalReserved => 0x2#4
  | .illegalTrap => 0x3#4
  | .inputEof => 0x4#4

/-- The three registers of the fault record written together (R201). -/
def State.recordFault (s : State) (cause : BitVec 4) (a w : Word) : State :=
  { s with faultCause := cause, faultPc := a, faultIr := w }

/-- `raise Fault(cause, info)` (R201): the record is written, the engine stops in FAULTED, the dispatcher is idle; no register,
flag, memory cell or stream changes and `pc` keeps A + 1. -/
def State.raiseFault (s : State) (cause : FaultCause) : State :=
  ((s.recordFault cause.code s.fetchAddress s.ir).setEstate .faulted).setDstate .idle

/-! ### The host's abort (10_state.md R39, 60_exceptions.md R204, R205; log 7) -/

/-- The abort is the next step: it is asserted now, or it is to come and the machine waits in `Receive()`. -/
def State.abortDue (s : State) : Bool :=
  match s.abortAfter with
  | none => false
  | some n => n == 0 || s.blocked

/-- The abort is taken: `estate` becomes ABORTED, everything else keeps its value (R204). -/
def State.takeAbort (s : State) : State := s.setEstate .aborted

/-- A step boundary passes with the abort not yet taken. -/
def State.passBoundary (s : State) : State := { s with abortAfter := s.abortAfter.map (· - 1) }

end Sys2Proof.Machine
end

