-- ==== Sys2Proof/Machine/Flags.lean ====
section
/-! DEFINITION. The condition flag: its 3-bit word (10_state.md R26), the flag-update rule `setcc` (R27), and BR's test of it
(41_control.md R120). -/

namespace Sys2Proof.Machine

/-- The one-hot word of the flag register: N = bit 2, Z = bit 1, P = bit 0 (R26; the spec's decision D2). -/
def Cond.bits : Cond → BitVec 3
  | .n => 0b100#3
  | .z => 0b010#3
  | .p => 0b001#3

/-- The flag of a word (R27). -/
def condOf (v : Word) : Cond :=
  if v = 0x0000#16 then .z else if v.getLsbD 15 then .n else .p

/-- `setcc(v)`: writes only `cond` (R27). -/
def State.setcc (s : State) (v : Word) : State := s.setCond (condOf v)

/-- `x[DR] <- v`, then `setcc(x[DR])`: how each of the seven flag-setting instructions ends (R28). -/
def State.writeDest (s : State) (dr : Reg) (v : Word) : State := (s.setReg dr v).setcc v

/-- `(ir[11:9] & cond) != 0` (R120). -/
def branchTaken (nzp : BitVec 3) (s : State) : Bool := decide (nzp &&& s.cond.bits ≠ 0#3)

end Sys2Proof.Machine
end

