-- ==== Sys2Proof/Machine/Operands.lean ====
section
/-! DEFINITION. The ALU (40_operate.md R110), the operand forms (30_encoding.md R84 to R86), the effective addresses
(42_load_store.md R130) and the bytes of a word. -/

namespace Sys2Proof.Machine

/-! ### ALU (R110): no carry, no overflow, wraps silently -/

/-- `(a + b) mod 2^16`; also the adder of every address (R110, 20_memory.md R51). -/
def aluAdd (a b : Word) : Word := a + b

/-- Bitwise AND. -/
def aluAnd (a b : Word) : Word := a &&& b

/-- Bitwise complement. -/
def aluNot (a : Word) : Word := ~~~a

/-! ### Immediates and bytes -/

/-- `sext_N(f)`: the sign bit of the field replicated into every higher bit of a word (R84). -/
def sext {n : Nat} (f : BitVec n) : Word := f.signExtend 16

/-- `zext_16(b)` (00_scope.md R7). -/
def zextByte (b : Byte) : Word := b.setWidth 16

/-- `v[7:0]`. -/
def lowByte (v : Word) : Byte := v.extractLsb' 0 8

/-- `v[15:8]`. -/
def highByte (v : Word) : Byte := v.extractLsb' 8 8

/-! ### Effective addresses (R130), `pc` being A + 1 -/

/-- PC-relative: `pc + sext_9(off)`. -/
def eaPcRelative (off : BitVec 9) (s : State) : Word := aluAdd s.pc (sext off)

/-- Indirect: the word at the PC-relative address. -/
def eaIndirect (off : BitVec 9) (s : State) : Word := s.memRead (eaPcRelative off s)

/-- Base plus offset: `x[base] + sext_6(off)`. -/
def eaBaseOffset (base : Reg) (off : BitVec 6) (s : State) : Word := aluAdd (s.reg base) (sext off)

/-- Register: `x[base]`. -/
def eaRegister (base : Reg) (s : State) : Word := s.reg base

end Sys2Proof.Machine
end

