-- ==== Sys2Proof/Machine/Control.lean ====
section
/-! DEFINITION. Control transfer: BR, JMP (RET), JSR, JSRR (41_control.md). Each runs with `pc` = A + 1. None writes `cond`
(R28), no target is checked (R124). -/

namespace Sys2Proof.Machine

/-- BR (R120). -/
def execBr (nzp : BitVec 3) (off : BitVec 9) (s : State) : Result :=
  .next (s.setPc (if branchTaken nzp s then eaPcRelative off s else s.pc))

/-- JMP, and RET as JMP R7 (R121). -/
def execJmp (base : Reg) (s : State) : Result :=
  .next (s.setPc (eaRegister base s))

/-- JSR (R122): R7 takes A + 1, `pc` the target. -/
def execJsr (off : BitVec 11) (s : State) : Result :=
  .next ((s.setReg linkReg s.pc).setPc (aluAdd s.pc (sext off)))

/-- JSRR (R123): R7 is written first and BaseR read after it, so JSRR R7 goes to A + 1 (the spec's decision D6). -/
def execJsrr (base : Reg) (s : State) : Result :=
  .next ((s.setReg linkReg s.pc).setPc (eaRegister base (s.setReg linkReg s.pc)))

end Sys2Proof.Machine
end

