-- ==== Sys2Proof/Machine/Illegal.lean ====
section
/-! DEFINITION. The illegal opcodes (44_illegal.md). Each takes the recorded fault the spec describes: a next state. -/

namespace Sys2Proof.Machine

/-- RTI (R180). -/
def execRti (s : State) : Result := .next (s.raiseFault .illegalRti)

/-- RESERVED (R181). -/
def execReserved (s : State) : Result := .next (s.raiseFault .illegalReserved)

end Sys2Proof.Machine
end

