-- ==== Sys2Proof/Machine/LoadStore.lean ====
section
/-! DEFINITION. Loads, stores and LEA (42_load_store.md), with the accesses of 20_memory.md R56. Each runs with `pc` = A + 1. -/

namespace Sys2Proof.Machine

/-- LD (R131). -/
def execLd (dr : Reg) (off : BitVec 9) (s : State) : Result :=
  .next (s.writeDest dr (s.memRead (eaPcRelative off s)))

/-- LDI (R132): the pointer, then the data. -/
def execLdi (dr : Reg) (off : BitVec 9) (s : State) : Result :=
  .next (s.writeDest dr (s.memRead (eaIndirect off s)))

/-- LDR (R133). -/
def execLdr (dr base : Reg) (off : BitVec 6) (s : State) : Result :=
  .next (s.writeDest dr (s.memRead (eaBaseOffset base off s)))

/-- LEA (R134): the address itself, no memory access; it sets the flag. -/
def execLea (dr : Reg) (off : BitVec 9) (s : State) : Result :=
  .next (s.writeDest dr (eaPcRelative off s))

/-- ST (R135). -/
def execSt (sr : Reg) (off : BitVec 9) (s : State) : Result :=
  .next (s.memWrite (eaPcRelative off s) (s.reg sr))

/-- STI (R136): the pointer is read, then the cell it names is written. -/
def execSti (sr : Reg) (off : BitVec 9) (s : State) : Result :=
  .next (s.memWrite (eaIndirect off s) (s.reg sr))

/-- STR (R137). -/
def execStr (sr base : Reg) (off : BitVec 6) (s : State) : Result :=
  .next (s.memWrite (eaBaseOffset base off s) (s.reg sr))

end Sys2Proof.Machine
end

