-- ==== Sys2Proof/Machine/Operate.lean ====
section
/-! DEFINITION. The operate instructions ADD, AND, NOT (40_operate.md). Each runs with `pc` = A + 1; every source is read
before DR is written, and the flag is set from DR. -/

namespace Sys2Proof.Machine

/-- ADD, register form (R111). -/
def execAddReg (dr sr1 sr2 : Reg) (s : State) : Result :=
  .next (s.writeDest dr (aluAdd (s.reg sr1) (s.reg sr2)))

/-- ADD, immediate form (R111). -/
def execAddImm (dr sr1 : Reg) (imm : BitVec 5) (s : State) : Result :=
  .next (s.writeDest dr (aluAdd (s.reg sr1) (sext imm)))

/-- AND, register form (R112). -/
def execAndReg (dr sr1 sr2 : Reg) (s : State) : Result :=
  .next (s.writeDest dr (aluAnd (s.reg sr1) (s.reg sr2)))

/-- AND, immediate form (R112). -/
def execAndImm (dr sr1 : Reg) (imm : BitVec 5) (s : State) : Result :=
  .next (s.writeDest dr (aluAnd (s.reg sr1) (sext imm)))

/-- NOT (R113). -/
def execNot (dr sr : Reg) (s : State) : Result :=
  .next (s.writeDest dr (aluNot (s.reg sr)))

end Sys2Proof.Machine
end

