-- ==== Sys2Proof/Syntax.lean ====
section
/-! DEFINITION. The instructions: one constructor for each row of spec/opcode_table.json, with the operand fields of
30_encoding.md R81 and R82. The bits that no field uses are no operands (R87). -/

namespace Sys2Proof

/-- An instruction, as decoded. Offsets and immediates are the raw fields; the machine sign-extends them (R84, R85). -/
inductive Instr where
  /-- BR nzp, PCoffset9 (R120). -/
  | br (nzp : BitVec 3) (off : BitVec 9)
  /-- ADD DR, SR1, SR2 (R111). -/
  | addReg (dr sr1 sr2 : Reg)
  /-- ADD DR, SR1, imm5 (R111). -/
  | addImm (dr sr1 : Reg) (imm : BitVec 5)
  /-- LD DR, PCoffset9 (R131). -/
  | ld (dr : Reg) (off : BitVec 9)
  /-- ST SR, PCoffset9 (R135). -/
  | st (sr : Reg) (off : BitVec 9)
  /-- JSR PCoffset11 (R122). -/
  | jsr (off : BitVec 11)
  /-- JSRR BaseR (R123). -/
  | jsrr (base : Reg)
  /-- AND DR, SR1, SR2 (R112). -/
  | andReg (dr sr1 sr2 : Reg)
  /-- AND DR, SR1, imm5 (R112). -/
  | andImm (dr sr1 : Reg) (imm : BitVec 5)
  /-- LDR DR, BaseR, offset6 (R133). -/
  | ldr (dr base : Reg) (off : BitVec 6)
  /-- STR SR, BaseR, offset6 (R137). -/
  | str (sr base : Reg) (off : BitVec 6)
  /-- RTI, opcode 8, illegal (R180). -/
  | rti
  /-- NOT DR, SR (R113). -/
  | notOp (dr sr : Reg)
  /-- LDI DR, PCoffset9 (R132). -/
  | ldi (dr : Reg) (off : BitVec 9)
  /-- STI SR, PCoffset9 (R136). -/
  | sti (sr : Reg) (off : BitVec 9)
  /-- JMP BaseR; RET is JMP R7 (R121). -/
  | jmp (base : Reg)
  /-- RESERVED, opcode 13, illegal (R181). -/
  | reserved
  /-- LEA DR, PCoffset9 (R134). -/
  | lea (dr : Reg) (off : BitVec 9)
  /-- TRAP trapvect8 (R150). The decoder uses it for the codes that have no row of their own (log 11). -/
  | trap (code : BitVec 8)
  /-- TRAP x20, GETC (R153). -/
  | trapGetc
  /-- TRAP x21, OUT (R154). -/
  | trapOut
  /-- TRAP x22, PUTS (R155). -/
  | trapPuts
  /-- TRAP x23, IN (R156). -/
  | trapIn
  /-- TRAP x24, PUTSP (R157). -/
  | trapPutsp
  /-- TRAP x25, HALT (R158). -/
  | trapHalt
  deriving DecidableEq, Repr

end Sys2Proof
end

