-- ==== Sys2Proof/WellFormed.lean ====
section
/-! DEFINITION. Which terms of `Instr` are an instruction of the hardware. Every operand's range is its type (30_encoding.md
R81); the one check left is that a TRAP whose code has a row of its own in the opcode table is written with that row's
constructor (43_trap.md R152). -/

namespace Sys2Proof

/-- The six codes 0x20 to 0x25 that select a service (R89, R152). -/
def isServiceCode (code : BitVec 8) : Bool :=
  decide (0x20 ≤ code.toNat) && decide (code.toNat ≤ 0x25)

/-- The check, run. -/
def Instr.wellFormed : Instr → Bool
  | .trap code => !isServiceCode code
  | .br _ _ | .addReg _ _ _ | .addImm _ _ _ | .ld _ _ | .st _ _ | .jsr _ | .jsrr _ | .andReg _ _ _
  | .andImm _ _ _ | .ldr _ _ _ | .str _ _ _ | .rti | .notOp _ _ | .ldi _ _ | .sti _ _ | .jmp _
  | .reserved | .lea _ _ | .trapGetc | .trapOut | .trapPuts | .trapIn | .trapPutsp | .trapHalt => true

/-- The instruction is one the decoder can give. -/
abbrev Instr.WellFormed (i : Instr) : Prop := i.wellFormed = true

end Sys2Proof
end

