-- ==== Sys2Proof/Decode.lean ====
section
/-! DEFINITION. The decoder, total on every word (30_encoding.md R91) and on every string of bytes, and after it the
encoder, both from the field table R81, the format table R82 and the opcode map R83. -/

namespace Sys2Proof

/-! ### Fields (R81) -/

/-- The opcode, bits 15 to 12. -/
def opcodeField (w : Word) : BitVec 4 := w.extractLsb' 12 4

/-- DR, or SR of a store, bits 11 to 9 (R86). -/
def drField (w : Word) : Reg := (w.extractLsb' 9 3).toFin

/-- The branch mask nzp, bits 11 to 9. -/
def nzpField (w : Word) : BitVec 3 := w.extractLsb' 9 3

/-- The JSR mode bit 11: true is JSR, false JSRR. -/
def jsrModeFlag (w : Word) : Bool := w.getLsbD 11

/-- SR1 or BaseR, bits 8 to 6 (R86). -/
def sr1Field (w : Word) : Reg := (w.extractLsb' 6 3).toFin

/-- The immediate flag, bit 5. -/
def immFlag (w : Word) : Bool := w.getLsbD 5

/-- SR2, bits 2 to 0 (R86). -/
def sr2Field (w : Word) : Reg := (w.extractLsb' 0 3).toFin

/-- imm5, bits 4 to 0. -/
def imm5Field (w : Word) : BitVec 5 := w.extractLsb' 0 5

/-- offset6, bits 5 to 0. -/
def offset6Field (w : Word) : BitVec 6 := w.extractLsb' 0 6

/-- PCoffset9, bits 8 to 0. -/
def offset9Field (w : Word) : BitVec 9 := w.extractLsb' 0 9

/-- PCoffset11, bits 10 to 0. -/
def offset11Field (w : Word) : BitVec 11 := w.extractLsb' 0 11

/-- trapvect8, bits 7 to 0. -/
def trapvectField (w : Word) : BitVec 8 := w.extractLsb' 0 8

/-! ### The opcode map (R83) -/

/-- The sixteen operations of R83. -/
inductive Opcode where
  | br | add | ld | st | jsr | and | ldr | str | rti | not | ldi | sti | jmp | reserved | lea | trap
  deriving DecidableEq, Repr

/-- The fixed 16-entry table, indexed by the opcode value (R83, 90_conflicts.md C4). -/
def opcodeTable : Vector Opcode 16 :=
  #v[.br, .add, .ld, .st, .jsr, .and, .ldr, .str, .rti, .not, .ldi, .sti, .jmp, .reserved, .lea, .trap]

/-- The operation of a word. -/
def opcodeOf (w : Word) : Opcode := opcodeTable.get (opcodeField w).toFin

/-- The 19 base rows of spec/opcode_table.json as (mask, match): a word belongs to a row when the mask leaves the match
(INDEX.md "Reading opcode_table.json"; the formats of R82). -/
def baseRows : List (Word × Word) :=
  [(0xF000, 0x0000), (0xF020, 0x1000), (0xF020, 0x1020), (0xF000, 0x2000), (0xF000, 0x3000),
   (0xF800, 0x4800), (0xF800, 0x4000), (0xF020, 0x5000), (0xF020, 0x5020), (0xF000, 0x6000)] ++
  [(0xF000, 0x7000), (0xF000, 0x8000), (0xF000, 0x9000), (0xF000, 0xA000), (0xF000, 0xB000),
   (0xF000, 0xC000), (0xF000, 0xD000), (0xF000, 0xE000), (0xF000, 0xF000)]

/-! ### Trap services (43_trap.md R152) -/

/-- The six console services. -/
inductive Service where
  | getc | out | puts | inp | putsp | halt
  deriving DecidableEq, Repr

/-- `Dispatch` as a pure function of the code: which service it selects, none for an unknown code (R152, R159). -/
def serviceOf (code : BitVec 8) : Option Service :=
  if code = 0x20#8 then some .getc
  else if code = 0x21#8 then some .out
  else if code = 0x22#8 then some .puts
  else if code = 0x23#8 then some .inp
  else if code = 0x24#8 then some .putsp
  else if code = 0x25#8 then some .halt
  else none

/-! ### The decoder -/

/-- A TRAP word by its code: the row of the service, or the plain TRAP row (R89). -/
def decodeTrap (code : BitVec 8) : Instr :=
  match serviceOf code with
  | some .getc => .trapGetc
  | some .out => .trapOut
  | some .puts => .trapPuts
  | some .inp => .trapIn
  | some .putsp => .trapPutsp
  | some .halt => .trapHalt
  | none => .trap code

/-- The instruction of a word. No word is refused (R91) and the bits no field uses are not looked at (R87). -/
def decode (w : Word) : Instr :=
  match opcodeOf w with
  | .br => .br (nzpField w) (offset9Field w)
  | .add => if immFlag w then .addImm (drField w) (sr1Field w) (imm5Field w) else .addReg (drField w) (sr1Field w) (sr2Field w)
  | .ld => .ld (drField w) (offset9Field w)
  | .st => .st (drField w) (offset9Field w)
  | .jsr => if jsrModeFlag w then .jsr (offset11Field w) else .jsrr (sr1Field w)
  | .and => if immFlag w then .andImm (drField w) (sr1Field w) (imm5Field w) else .andReg (drField w) (sr1Field w) (sr2Field w)
  | .ldr => .ldr (drField w) (sr1Field w) (offset6Field w)
  | .str => .str (drField w) (sr1Field w) (offset6Field w)
  | .rti => .rti
  | .not => .notOp (drField w) (sr1Field w)
  | .ldi => .ldi (drField w) (offset9Field w)
  | .sti => .sti (drField w) (offset9Field w)
  | .jmp => .jmp (sr1Field w)
  | .reserved => .reserved
  | .lea => .lea (drField w) (offset9Field w)
  | .trap => decodeTrap (trapvectField w)

/-- Why a string of bytes holds no instruction. -/
inductive DecodeError where
  /-- No byte is left. -/
  | noBytes
  /-- One byte is left: half a word. -/
  | truncatedWord
  deriving DecidableEq, Repr

/-- Two bytes of the external medium as a word, the byte of bits 15 to 8 first (20_memory.md R54, R60). -/
def wordOfBytes (hi lo : Byte) : Word := hi ++ lo

/-- The first instruction of a byte string in image order (R54), and the bytes after it. -/
def decodeBytes : List Byte → Except DecodeError (Instr × List Byte)
  | [] => .error .noBytes
  | [_] => .error .truncatedWord
  | hi :: lo :: rest => .ok (decode (wordOfBytes hi lo), rest)

/-- The word of a table row given as a number of `nbits` bits, the bits above them zero. -/
def tableWord (nbits w : Nat) : Word := BitVec.ofNat 16 (w % 2 ^ nbits)

/-- What the decoder reads from an instruction whose bits are `w` (opcode_table.json's numbering). Every instruction is one
16-bit word (R80), so more bits than 16 are none. -/
def decodeTableWord (nbits w : Nat) : Option Instr :=
  if nbits ≤ 16 then
    match decodeBytes [(tableWord nbits w).extractLsb' 8 8, (tableWord nbits w).extractLsb' 0 8] with
    | .ok (i, _) => some i
    | .error _ => none
  else none

/-! ### The encoder (R82) -/

/-- The `x` bits of an instruction's format, which no decoding looks at (R82, R87). -/
def ignoredBits : Instr → Word
  | .addReg _ _ _ | .andReg _ _ _ => 0x0018#16
  | .notOp _ _ => 0x003F#16
  | .jmp _ => 0x0E3F#16
  | .jsrr _ => 0x063F#16
  | .trap _ | .trapGetc | .trapOut | .trapPuts | .trapIn | .trapPutsp | .trapHalt => 0x0F00#16
  | .rti | .reserved => 0x0FFF#16
  | .br _ _ | .addImm _ _ _ | .andImm _ _ _ | .ld _ _ | .ldi _ _ | .ldr _ _ _ | .lea _ _ | .st _ _
  | .sti _ _ | .str _ _ _ | .jsr _ => 0x0000#16

/-- A register index as its 3-bit field (R86). -/
def regBits (r : Reg) : BitVec 3 := BitVec.ofFin (w := 3) r

/-- A TRAP word with bits 11 to 8 zero. -/
def encodeTrap (code : BitVec 8) : Word := 0b1111#4 ++ 0b0000#4 ++ code

/-- The word of an instruction by the formats of R82. The ignored bits are those R92 writes: ones in NOT, zeros elsewhere
(DESIGN CHOICE, log 13; safe: no decoding looks at them, R87). -/
def encode : Instr → Word
  | .br nzp off => 0b0000#4 ++ nzp ++ off
  | .addReg dr sr1 sr2 => 0b0001#4 ++ regBits dr ++ regBits sr1 ++ 0b000#3 ++ regBits sr2
  | .addImm dr sr1 imm => 0b0001#4 ++ regBits dr ++ regBits sr1 ++ 0b1#1 ++ imm
  | .ld dr off => 0b0010#4 ++ regBits dr ++ off
  | .st sr off => 0b0011#4 ++ regBits sr ++ off
  | .jsr off => 0b0100#4 ++ 0b1#1 ++ off
  | .jsrr base => 0b0100#4 ++ 0b000#3 ++ regBits base ++ 0b000000#6
  | .andReg dr sr1 sr2 => 0b0101#4 ++ regBits dr ++ regBits sr1 ++ 0b000#3 ++ regBits sr2
  | .andImm dr sr1 imm => 0b0101#4 ++ regBits dr ++ regBits sr1 ++ 0b1#1 ++ imm
  | .ldr dr base off => 0b0110#4 ++ regBits dr ++ regBits base ++ off
  | .str sr base off => 0b0111#4 ++ regBits sr ++ regBits base ++ off
  | .rti => 0b1000#4 ++ 0#12
  | .notOp dr sr => 0b1001#4 ++ regBits dr ++ regBits sr ++ 0b111111#6
  | .ldi dr off => 0b1010#4 ++ regBits dr ++ off
  | .sti sr off => 0b1011#4 ++ regBits sr ++ off
  | .jmp base => 0b1100#4 ++ 0b000#3 ++ regBits base ++ 0b000000#6
  | .reserved => 0b1101#4 ++ 0#12
  | .lea dr off => 0b1110#4 ++ regBits dr ++ off
  | .trap code => encodeTrap code
  | .trapGetc => encodeTrap 0x20#8
  | .trapOut => encodeTrap 0x21#8
  | .trapPuts => encodeTrap 0x22#8
  | .trapIn => encodeTrap 0x23#8
  | .trapPutsp => encodeTrap 0x24#8
  | .trapHalt => encodeTrap 0x25#8

/-- A word as the two bytes of the external medium, high byte first (20_memory.md R54). -/
def bytesOfWord (w : Word) : List Byte := [w.extractLsb' 8 8, w.extractLsb' 0 8]

end Sys2Proof
end

