-- ==== Sys2Proof/Machine/Trap.lean ====
section
/-! DEFINITION. TRAP (43_trap.md R150): the instruction step hands its code to the dispatcher, which starts a service (R152) or
raises ILLEGAL_TRAP (R159). The service then runs by dispatcher steps (Services.lean). TRAP writes no register, R7 included
(the spec's decision D7), no flag and no memory; `pc` stays A + 1. -/

namespace Sys2Proof.Machine

/-- The state a service begins in; PUTS and PUTSP latch R0 as the scan address (R152). -/
def Service.initialState (svc : Service) (s : State) : DState :=
  match svc with
  | .getc => .getcWait
  | .out => .outEmit
  | .puts => .putsScan (eaRegister serviceReg s)
  | .inp => .inPrompt 0
  | .putsp => .putspLo (eaRegister serviceReg s)
  | .halt => .haltNotice 0

/-- The dispatcher leaves IDLE for a service. -/
def startService (svc : Service) (s : State) : State := s.setDstate (Service.initialState svc s)

/-- `dstate <- Dispatch(code)` (R150, R152). -/
def dispatch (code : BitVec 8) (s : State) : State :=
  match serviceOf code with
  | some svc => startService svc s
  | none => s.raiseFault .illegalTrap

/-- TRAP with any code (R150, R159). -/
def execTrap (code : BitVec 8) (s : State) : Result := .next (dispatch code s)

/-- TRAP x20 (R153). -/
def execTrapGetc (s : State) : Result := .next (dispatch 0x20#8 s)

/-- TRAP x21 (R154). -/
def execTrapOut (s : State) : Result := .next (dispatch 0x21#8 s)

/-- TRAP x22 (R155). -/
def execTrapPuts (s : State) : Result := .next (dispatch 0x22#8 s)

/-- TRAP x23 (R156). -/
def execTrapIn (s : State) : Result := .next (dispatch 0x23#8 s)

/-- TRAP x24 (R157). -/
def execTrapPutsp (s : State) : Result := .next (dispatch 0x24#8 s)

/-- TRAP x25 (R158). -/
def execTrapHalt (s : State) : Result := .next (dispatch 0x25#8 s)

end Sys2Proof.Machine
end

