-- ==== Sys2Proof/Machine/Services.lean ====
section
/-! DEFINITION. The trap service dispatcher: one definition for each row of 43_trap.md R151, one dispatcher step each
(70_reset_and_hazards.md R245). A step makes at most one `Emit`, one `Receive` and one `MemRead`; none writes memory, `cond`,
`pc`, or a register other than R0 (R160). -/

namespace Sys2Proof.Machine

/-- GETC_WAIT (R153). -/
def stepGetcWait (s : State) : Result :=
  match s.receive with
  | none => .fault .awaitingInput
  | some (.byte b, s') => .next ((s'.setReg serviceReg (zextByte b)).setDstate .idle)
  | some (.endOfInput, s') => .next (s'.raiseFault .inputEof)

/-- OUT_EMIT (R154). -/
def stepOutEmit (s : State) : Result :=
  .next ((s.emit (lowByte (s.reg serviceReg))).setDstate .idle)

/-- PUTS_SCAN (R155): a zero cell ends the service; a non-zero one emits its low byte (the spec's decision D13). -/
def stepPutsScan (a : Word) (s : State) : Result :=
  if s.memRead a = 0x0000#16 then .next (s.setDstate .idle)
  else .next ((s.emit (lowByte (s.memRead a))).setDstate (.putsScan (aluAdd a 1#16)))

/-- IN_PROMPT (R156): one prompt byte, or on to the wait when all are out. -/
def stepInPrompt (i : Nat) (s : State) : Result :=
  match s.promptText[i]? with
  | some b => .next ((s.emit b).setDstate (.inPrompt (i + 1)))
  | none => .next (s.setDstate .inWait)

/-- IN_WAIT (R156). -/
def stepInWait (s : State) : Result :=
  match s.receive with
  | none => .fault .awaitingInput
  | some (.byte b, s') => .next (s'.setDstate (.inEcho b))
  | some (.endOfInput, s') => .next (s'.raiseFault .inputEof)

/-- IN_ECHO (R156): the echo, then R0. -/
def stepInEcho (b : Byte) (s : State) : Result :=
  .next (((s.emit b).setReg serviceReg (zextByte b)).setDstate .idle)

/-- PUTSP_LO (R157): a zero low byte ends the service (the spec's decision D14). -/
def stepPutspLo (a : Word) (s : State) : Result :=
  if lowByte (s.memRead a) = 0x00#8 then .next (s.setDstate .idle)
  else .next ((s.emit (lowByte (s.memRead a))).setDstate (.putspHi a (s.memRead a)))

/-- PUTSP_HI (R157): the latched cell's high byte. -/
def stepPutspHi (a c : Word) (s : State) : Result :=
  if highByte c = 0x00#8 then .next (s.setDstate .idle)
  else .next ((s.emit (highByte c)).setDstate (.putspLo (aluAdd a 1#16)))

/-- HALT_NOTICE (R158): one notice byte, or the stop when all are out. -/
def stepHaltNotice (i : Nat) (s : State) : Result :=
  match s.noticeText[i]? with
  | some b => .next ((s.emit b).setDstate (.haltNotice (i + 1)))
  | none => .next ((s.setEstate .halted).setDstate .idle)

/-- One dispatcher step (R245): the row of `dstate`. IDLE has no action (R151). -/
def dispatcherStep (s : State) : Result :=
  match s.dstate with
  | .idle => .next s
  | .getcWait => stepGetcWait s
  | .outEmit => stepOutEmit s
  | .putsScan a => stepPutsScan a s
  | .inPrompt i => stepInPrompt i s
  | .inWait => stepInWait s
  | .inEcho b => stepInEcho b s
  | .putspLo a => stepPutspLo a s
  | .putspHi a c => stepPutspHi a c s
  | .haltNotice i => stepHaltNotice i s

end Sys2Proof.Machine
end

