-- ==== Sys2Proof/Machine/Step.lean ====
section
/-! DEFINITION. One step of the machine (70_reset_and_hazards.md R246): an instruction step (R244), a dispatcher step (R245) or
an abort (60_exceptions.md R204). -/

namespace Sys2Proof.Machine

/-- `step_instruction()` (R244): fetch and increment, decode, execute. -/
def instructionStep (s : State) : Result := exec (decode s.fetch.ir) s.fetch

/-- A step in estate RUNNING: the abort if the host's is due, else the step of whichever sequencer has the turn (R34). -/
def runningStep (s : State) : Result :=
  if s.abortDue then .next s.takeAbort
  else if s.dstate = .idle then instructionStep s.passBoundary
  else dispatcherStep s.passBoundary

/-- One step; in the terminal states there is none (R246, 10_state.md R32). -/
def step (s : State) : Host.Outcome State Fault Refusal :=
  match s.estate with
  | .running => runningStep s
  | .halted => .fault .engineHalted
  | .faulted => .fault .engineFaulted
  | .aborted => .fault .engineAborted

/-- The state with an instruction's word, given as `spec/opcode_table.json` numbers its bits, in the cell the next fetch reads,
and the engine about to fetch: RUNNING, dispatcher idle, no abort due (log 12). -/
def State.withFetchWord (s : State) (nbits w : Nat) : State :=
  { (s.memWrite s.pc (tableWord nbits w)) with estate := .running, dstate := .idle, abortAfter := none }

end Sys2Proof.Machine
end

