-- ==== Sys2Proof/Machine/Launch.lean ====
section
/-! DEFINITION. What the host does to the machine between its steps: reset with an image (70_reset_and_hazards.md R240, the loader
of 20_memory.md R60), delivering input (10_state.md R37) and scheduling an abort (R39). None of these is a step (R246). -/

namespace Sys2Proof.Machine

/-- Why a launch fails before any fetch (20_memory.md R60, R62; 60_exceptions.md R202). -/
inductive LoadFault where
  /-- The stream is missing, or cannot be opened or read (R62). -/
  | unreadable
  /-- L = 0 (the spec's decision D22). -/
  | noOrigin
  /-- L is odd. -/
  | truncatedWord
  /-- More words than cells from the origin on (the spec's decision D21). -/
  | overflow
  deriving DecidableEq, Repr

/-- The big-endian words of a byte stream (R54, R60). A last byte without its fellow gives none. -/
def wordsOfBytes : List Byte → List Word
  | hi :: lo :: rest => wordOfBytes hi lo :: wordsOfBytes rest
  | _ => []

/-- `Mem[a + k] <- ws[k]`, k rising. -/
def Memory.store (m : Memory) (a : Nat) : List Word → Memory
  | [] => m
  | w :: ws => Memory.store (m.set a w) (a + 1) ws

/-- The words after the origin are put at the origin, unless they run past the last cell (R60). -/
def placeImage (origin : Word) (ws : List Word) : Except LoadFault Memory :=
  if ws.length > Config.memoryWords - origin.toNat then .error .overflow
  else .ok (Memory.empty.store origin.toNat ws)

/-- `Load(s)` over zero memory (R59, R60). `none` is a stream that cannot be read (R62; log 14). -/
def load : Option (List Byte) → Except LoadFault Memory
  | none => .error .unreadable
  | some [] => .error .noOrigin
  | some [_] => .error .truncatedWord
  | some (hi :: lo :: rest) =>
    if rest.length % 2 = 1 then .error .truncatedWord
    else placeImage (wordOfBytes hi lo) (wordsOfBytes rest)

/-- `reset(image)` (R240): the state at the first fetch, or the load fault that ends the launch with no state (R62). -/
def launch (p : Params) (image : Option (List Byte)) : Except LoadFault State :=
  match load image with
  | .ok m => .ok (State.resetWith p m)
  | .error f => .error f

/-- The host delivers a byte or END-OF-INPUT (R37, 70_reset_and_hazards.md R243). -/
def State.deliver (s : State) (d : Delivery) : State := { s with input := s.input ++ [d] }

/-- The host will assert `abort` after `n` more steps, at once if `n` is 0 (R39, 60_exceptions.md R204). -/
def State.scheduleAbort (s : State) (n : Nat) : State := { s with abortAfter := some n }

end Sys2Proof.Machine
end

