-- ==== Sys2Proof/Safety.lean ====
section
/-! DEFINITION. The terms that claims about runs use: many steps, what the host can read, the good end, the machine's invariant. -/

namespace Sys2Proof.Machine

/-- `k` steps, stopping at the first state that has none. -/
def steps : Nat → State → Result
  | 0, s => .next s
  | k + 1, s =>
    match step s with
    | .next t => steps k t
    | .fault f => .fault f
    | .refused r => .refused r

/-- The engine is about to fetch: RUNNING, the dispatcher idle, the host's abort not the next step (R34, R244). -/
structure State.ReadyToFetch (s : State) : Prop where
  running : s.estate = .running
  idle : s.dstate = .idle
  noAbort : s.abortDue = false

/-- The host's abort is not the step taken at any of the next `k` step boundaries, as long as none of them is a wait with
nothing delivered. -/
def State.NoAbortFor (k : Nat) (s : State) : Prop := ∀ n, s.abortAfter = some n → k ≤ n

/-- What the host can read at any time: `estate` and the fault record (10_state.md R40). -/
structure Status where
  estate : EState
  faultCause : BitVec 4
  faultPc : Word
  faultIr : Word
  deriving DecidableEq, Repr

/-- The status outputs (R40). -/
def State.status (s : State) : Status :=
  { estate := s.estate, faultCause := s.faultCause, faultPc := s.faultPc, faultIr := s.faultIr }

/-- The observation of a run that ends well: its six parts (70_reset_and_hazards.md R250). -/
structure Observation where
  mem : Memory
  regs : Vector Word 8
  pc : Word
  cond : Cond
  output : List Byte
  consumedBytes : Nat
  deriving DecidableEq, Repr

/-- What is observed of a state (R250). -/
def State.observe (s : State) : Observation :=
  { mem := s.mem, regs := s.regs, pc := s.pc, cond := s.cond, output := s.output, consumedBytes := s.consumed.length }

/-- A run ended well: HALTED, and in no other state (R250). -/
abbrev State.EndedWell (s : State) : Prop := s.estate = .halted

/-- The service a dispatcher state belongs to (43_trap.md R151). -/
def DState.service : DState → Option Service
  | .idle => none
  | .getcWait => some .getc
  | .outEmit => some .out
  | .putsScan _ => some .puts
  | .inPrompt _ | .inWait | .inEcho _ => some .inp
  | .putspLo _ | .putspHi _ _ => some .putsp
  | .haltNotice _ => some .halt

/-- A word is a TRAP that selects a service (R150, R152). -/
def IsTrapWord (w : Word) (svc : Service) : Prop := opcodeOf w = .trap ∧ serviceOf (trapvectField w) = some svc

/-- What a recorded cause says of the recorded word (60_exceptions.md R200). -/
def CauseMatchesWord (cause : BitVec 4) (w : Word) : Prop :=
  (cause = 0x1#4 ∧ opcodeOf w = .rti) ∨ (cause = 0x2#4 ∧ opcodeOf w = .reserved) ∨
  (cause = 0x3#4 ∧ opcodeOf w = .trap ∧ serviceOf (trapvectField w) = none) ∨
  (cause = 0x4#4 ∧ (IsTrapWord w .getc ∨ IsTrapWord w .inp))

/-- The invariant that every step keeps. -/
structure State.Inv (s : State) : Prop where
  /-- Memory is in canonical form. -/
  memWf : s.mem.wf = true
  /-- A stop by HALT or by a fault leaves the dispatcher idle (R151, R201). -/
  stoppedIdle : s.estate = .halted ∨ s.estate = .faulted → s.dstate = .idle
  /-- Outside FAULTED the fault record holds its reset values (R33). -/
  recordEmpty : s.estate ≠ .faulted → s.faultCause = 0x0#4 ∧ s.faultPc = 0#16 ∧ s.faultIr = 0#16
  /-- In FAULTED the record names the fetched word, the address it came from and a cause that fits it (R200, R201). -/
  recordWritten : s.estate = .faulted →
    s.faultPc = s.pc - 1#16 ∧ s.faultIr = s.ir ∧ CauseMatchesWord s.faultCause s.faultIr
  /-- A running service belongs to the TRAP word in `ir` (R30, R152). -/
  serviceWord : ∀ svc, s.dstate.service = some svc → IsTrapWord s.ir svc
  /-- The text indices stay within the texts (R151). -/
  promptIndex : ∀ i, s.dstate = .inPrompt i → i ≤ s.promptText.length
  noticeIndex : ∀ i, s.dstate = .haltNotice i → i ≤ s.noticeText.length
  /-- The cell latched by PUTSP_HI is the one at its scan address, and its low byte was emitted (R151). -/
  putspLatch : ∀ a c, s.dstate = .putspHi a c → s.memRead a = c ∧ lowByte c ≠ 0x00#8

/-! ### What an instruction may write -/

/-- DR of the seven instructions that set the flag, none for every other (10_state.md R28). -/
def Instr.flagDest : Instr → Option Reg
  | .addReg dr _ _ | .addImm dr _ _ | .andReg dr _ _ | .andImm dr _ _ | .notOp dr _ | .ld dr _ | .ldi dr _
  | .ldr dr _ _ | .lea dr _ => some dr
  | .br _ _ | .jmp _ | .jsr _ | .jsrr _ | .st _ _ | .sti _ _ | .str _ _ _ | .rti | .reserved | .trap _
  | .trapGetc | .trapOut | .trapPuts | .trapIn | .trapPutsp | .trapHalt => none

/-- The register an instruction step writes: DR, or R7 for JSR and JSRR (R22). -/
def Instr.writtenReg : Instr → Option Reg
  | .jsr _ | .jsrr _ => some linkReg
  | i => Instr.flagDest i

/-- The address an instruction stores to, none for a form that stores nothing (20_memory.md R56). -/
def Instr.storeAddress (i : Instr) (s : State) : Option Word :=
  match i with
  | .st _ off => some (eaPcRelative off s)
  | .sti _ off => some (eaIndirect off s)
  | .str _ base off => some (eaBaseOffset base off s)
  | .br _ _ | .addReg _ _ _ | .addImm _ _ _ | .ld _ _ | .jsr _ | .jsrr _ | .andReg _ _ _ | .andImm _ _ _
  | .ldr _ _ _ | .rti | .notOp _ _ | .ldi _ _ | .jmp _ | .reserved | .lea _ _ | .trap _ | .trapGetc
  | .trapOut | .trapPuts | .trapIn | .trapPutsp | .trapHalt => none

/-- The register whose word an instruction stores, none for a form that stores nothing (42_load_store.md R135 to R137). -/
def Instr.storeSource : Instr → Option Reg
  | .st sr _ | .sti sr _ | .str sr _ _ => some sr
  | .br _ _ | .addReg _ _ _ | .addImm _ _ _ | .ld _ _ | .jsr _ | .jsrr _ | .andReg _ _ _ | .andImm _ _ _
  | .ldr _ _ _ | .rti | .notOp _ _ | .ldi _ _ | .jmp _ | .reserved | .lea _ _ | .trap _ | .trapGetc
  | .trapOut | .trapPuts | .trapIn | .trapPutsp | .trapHalt => none

/-- The code a TRAP hands to the dispatcher (43_trap.md R150). -/
def Instr.trapCode : Instr → Option (BitVec 8)
  | .trap code => some code
  | .trapGetc => some 0x20#8
  | .trapOut => some 0x21#8
  | .trapPuts => some 0x22#8
  | .trapIn => some 0x23#8
  | .trapPutsp => some 0x24#8
  | .trapHalt => some 0x25#8
  | .br _ _ | .addReg _ _ _ | .addImm _ _ _ | .ld _ _ | .st _ _ | .jsr _ | .jsrr _ | .andReg _ _ _
  | .andImm _ _ _ | .ldr _ _ _ | .str _ _ _ | .rti | .notOp _ _ | .ldi _ _ | .sti _ _ | .jmp _
  | .reserved | .lea _ _ => none

/-! ### Frames: what is unchanged from `s` to `t` -/

/-- Every register but `d`. -/
def State.SameRegsBut (d : Reg) (s t : State) : Prop := ∀ r, r ≠ d → t.reg r = s.reg r

/-- Every register. -/
def State.SameRegs (s t : State) : Prop := ∀ r, t.reg r = s.reg r

/-- Every cell of memory. -/
def State.SameMem (s t : State) : Prop := ∀ a, t.memRead a = s.memRead a

/-- Every cell of memory but the one at `d`. -/
def State.SameMemBut (d : Word) (s t : State) : Prop := ∀ a, a ≠ d → t.memRead a = s.memRead a

/-- The engine and the dispatcher state. -/
def State.SameEngine (s t : State) : Prop := t.estate = s.estate ∧ t.dstate = s.dstate

/-- The fault record. -/
def State.SameRecord (s t : State) : Prop :=
  t.faultCause = s.faultCause ∧ t.faultPc = s.faultPc ∧ t.faultIr = s.faultIr

/-- The console streams. -/
def State.SameStreams (s t : State) : Prop :=
  t.consumed = s.consumed ∧ t.input = s.input ∧ t.output = s.output

/-- The two texts, which nothing ever writes. -/
def State.SameTexts (s t : State) : Prop := t.promptText = s.promptText ∧ t.noticeText = s.noticeText

/-- Everything but registers, `pc`, `cond` and memory: what every instruction other than TRAP, RTI and RESERVED keeps. -/
def State.SameRest (s t : State) : Prop :=
  t.ir = s.ir ∧ s.SameEngine t ∧ s.SameRecord t ∧ s.SameStreams t ∧ s.SameTexts t ∧ t.abortAfter = s.abortAfter

/-- The flag `c` is the one of the word `v` (10_state.md R27). -/
def FlagFollows (v : Word) (c : Cond) : Prop :=
  (v = 0x0000#16 → c = .z) ∧ (v ≠ 0x0000#16 → v.getLsbD 15 = true → c = .n) ∧
  (v ≠ 0x0000#16 → v.getLsbD 15 = false → c = .p)

/-- `t` is `s` with DR written and the flag set from it, and nothing else changed. -/
def WritesDest (dr : Reg) (v : Word) (s t : State) : Prop :=
  t.reg dr = v ∧ FlagFollows v t.cond ∧ s.SameRegsBut dr t ∧ t.pc = s.pc ∧ s.SameMem t ∧ s.SameRest t

/-- `t` is `s` with one cell written, and nothing else changed. -/
def WritesCell (a v : Word) (s t : State) : Prop :=
  t.memRead a = v ∧ s.SameMemBut a t ∧ s.SameRegs t ∧ t.pc = s.pc ∧ t.cond = s.cond ∧ s.SameRest t

/-- `t` is `s` stopped by a fault: the record written, FAULTED, the dispatcher idle, and nothing else changed (60_exceptions.md
R201). -/
def StopsByFault (cause : BitVec 4) (s t : State) : Prop :=
  t.faultCause = cause ∧ t.faultPc = s.pc - 1#16 ∧ t.faultIr = s.ir ∧ t.estate = .faulted ∧ t.dstate = .idle ∧
  s.SameRegs t ∧ t.pc = s.pc ∧ t.cond = s.cond ∧ t.ir = s.ir ∧ s.SameMem t ∧ s.SameStreams t ∧ s.SameTexts t ∧
  t.abortAfter = s.abortAfter

/-- What a trap service leaves unchanged from the fetch of its TRAP to its end, `s` being the state before the fetch: `pc` is
A + 1, the word is in `ir`, and only R0, the streams, the engine and the record may differ (43_trap.md R160). -/
def ServiceKeeps (s t : State) : Prop :=
  t.pc = s.pc + 1#16 ∧ t.ir = s.memRead s.pc ∧ t.cond = s.cond ∧ s.SameRegsBut serviceReg t ∧ s.SameMem t ∧ s.SameTexts t

end Sys2Proof.Machine
end

