-- ==== Sys2Proof/Certificates/Slice0/Obligations.lean ====
section
/-! DEFINITION. The statements for the provers, from the numbered rules of spec/. "The spec's own decision D<n>" in a docstring is a
row of 92_eei_decisions.md: a choice of the spec, not of its source. -/

open Sys2Proof Sys2Proof.Machine

/-! ### Encoding (30_encoding.md) -/

/-- Words the spec writes out beside their assembly (95_test_vectors.md, Part 2, and the worked examples of 40_operate.md to
44_illegal.md) decode to the instruction they stand for. That 0xFF25 is HALT, its bits 11 to 8 ignored, is the spec's own decision
D5. -/
def Obligations.WrittenOutWordsDecode : Prop :=
  decode 0x0803#16 = .br 0b100#3 3#9 ∧ decode 0x1642#16 = .addReg 3 1 2 ∧ decode 0x147F#16 = .addImm 2 1 0b11111#5 ∧
  decode 0x2202#16 = .ld 1 2#9 ∧ decode 0x3204#16 = .st 1 4#9 ∧ decode 0x4804#16 = .jsr 4#11 ∧
  decode 0x40C0#16 = .jsrr 3 ∧ decode 0x5642#16 = .andReg 3 1 2 ∧ decode 0x5020#16 = .andImm 0 0 0#5 ∧
  decode 0x673E#16 = .ldr 3 4 0b111110#6 ∧ decode 0x74DF#16 = .str 2 3 31#6 ∧ decode 0x8000#16 = .rti ∧
  decode 0x92BF#16 = .notOp 1 2 ∧ decode 0xA401#16 = .ldi 2 1#9 ∧ decode 0xB201#16 = .sti 1 1#9 ∧
  decode 0xC1C0#16 = .jmp 7 ∧ decode 0xDEAD#16 = .reserved ∧ decode 0xE005#16 = .lea 0 5#9 ∧
  decode 0xF026#16 = .trap 0x26#8 ∧ decode 0xF020#16 = .trapGetc ∧ decode 0xF021#16 = .trapOut ∧
  decode 0xF022#16 = .trapPuts ∧ decode 0xF023#16 = .trapIn ∧ decode 0xF024#16 = .trapPutsp ∧ decode 0xFF25#16 = .trapHalt

/-- Decode and encode agree on every well-formed instruction, every operand at every value (R81, R82). The ignored bits that
encode writes are the model's choice (log 13). -/
def Obligations.DecodeOfEncodeIsIdentity : Prop :=
  ∀ i : Instr, i.WellFormed → decode (encode i) = i

/-- Every word decodes to a well-formed instruction, and encoding that gives the word back but for the bits its format ignores
(R82, R91; that they are ignored is the spec's own decision D5). -/
def Obligations.EncodeOfDecodeKeepsEveryField : Prop :=
  ∀ w : Word, (decode w).WellFormed ∧
    encode (decode w) &&& ~~~(ignoredBits (decode w)) = w &&& ~~~(ignoredBits (decode w))

/-- Changing the ignored bits of a word changes nothing of what it decodes to (R87, the spec's own decision D5). -/
def Obligations.IgnoredBitsDoNotChangeDecode : Prop :=
  ∀ w x : Word, decode (w ^^^ (x &&& ignoredBits (decode w))) = decode w

/-- Every word belongs to exactly one of the 19 forms, and the decoder gives exactly that form's instruction (R82, R91), with the
rows' masks and matches as opcode_table.json has them. That the masks leave the `x` bits out is the spec's own decision D5. -/
def Obligations.EveryWordHasExactlyOneForm : Prop :=
  (∀ w : Word, (baseRows.filter (fun r => w &&& r.1 == r.2)).length = 1) ∧
  ∀ w : Word,
    (w &&& 0xF000#16 = 0x0000#16 ↔ ∃ nzp off, decode w = .br nzp off) ∧
    (w &&& 0xF020#16 = 0x1000#16 ↔ ∃ dr sr1 sr2, decode w = .addReg dr sr1 sr2) ∧
    (w &&& 0xF020#16 = 0x1020#16 ↔ ∃ dr sr1 imm, decode w = .addImm dr sr1 imm) ∧
    (w &&& 0xF000#16 = 0x2000#16 ↔ ∃ dr off, decode w = .ld dr off) ∧
    (w &&& 0xF000#16 = 0x3000#16 ↔ ∃ sr off, decode w = .st sr off) ∧
    (w &&& 0xF800#16 = 0x4800#16 ↔ ∃ off, decode w = .jsr off) ∧
    (w &&& 0xF800#16 = 0x4000#16 ↔ ∃ base, decode w = .jsrr base) ∧
    (w &&& 0xF020#16 = 0x5000#16 ↔ ∃ dr sr1 sr2, decode w = .andReg dr sr1 sr2) ∧
    (w &&& 0xF020#16 = 0x5020#16 ↔ ∃ dr sr1 imm, decode w = .andImm dr sr1 imm) ∧
    (w &&& 0xF000#16 = 0x6000#16 ↔ ∃ dr base off, decode w = .ldr dr base off) ∧
    (w &&& 0xF000#16 = 0x7000#16 ↔ ∃ sr base off, decode w = .str sr base off) ∧
    (w &&& 0xF000#16 = 0x8000#16 ↔ decode w = .rti) ∧
    (w &&& 0xF000#16 = 0x9000#16 ↔ ∃ dr sr, decode w = .notOp dr sr) ∧
    (w &&& 0xF000#16 = 0xA000#16 ↔ ∃ dr off, decode w = .ldi dr off) ∧
    (w &&& 0xF000#16 = 0xB000#16 ↔ ∃ sr off, decode w = .sti sr off) ∧
    (w &&& 0xF000#16 = 0xC000#16 ↔ ∃ base, decode w = .jmp base) ∧
    (w &&& 0xF000#16 = 0xD000#16 ↔ decode w = .reserved) ∧
    (w &&& 0xF000#16 = 0xE000#16 ↔ ∃ dr off, decode w = .lea dr off) ∧
    (w &&& 0xF000#16 = 0xF000#16 ↔ (Instr.trapCode (decode w)).isSome = true)

/-- A TRAP word carries its low 8 bits to the dispatcher, whatever bits 11 to 8 hold (R89; the spec's own decision D5). -/
def Obligations.TrapWordCarriesItsLowByte : Prop :=
  ∀ w : Word, w.extractLsb' 12 4 = 0b1111#4 → Instr.trapCode (decode w) = some (w.extractLsb' 0 8)

/-- Sign extension of the 5-, 6-, 9- and 11-bit fields: the low bits stay, every higher bit is the field's sign bit, and the value
as a two's-complement number is kept (R84). -/
def Obligations.SignExtensionReplicatesTheSignBit : Prop :=
  ∀ n : Nat, n ∈ [5, 6, 9, 11] → ∀ f : BitVec n,
    (∀ i, i < 16 → (sext f).getLsbD i = if i < n then f.getLsbD i else f.getLsbD (n - 1)) ∧ (sext f).toInt = f.toInt

/-! ### Flags (10_state.md) -/

/-- `setcc(v)` leaves the flag the rule gives for `v` and writes nothing else; an instruction that applies it applies it to the
value it wrote to DR (R27). -/
def Obligations.SetccFollowsTheWord : Prop :=
  (∀ (s : State) (v : Word), FlagFollows v (s.setcc v).cond ∧ (s.setcc v).pc = s.pc ∧ s.SameRegs (s.setcc v) ∧
    s.SameMem (s.setcc v) ∧ s.SameRest (s.setcc v)) ∧
  (∀ (i : Instr) (s t : State) (dr : Reg), exec i s = .next t → Instr.flagDest i = some dr → t.cond = (t.setcc (t.reg dr)).cond)

/-- Exactly seven instructions set the flag, from the word they wrote to DR; no other instruction and no step of a service writes
`cond`; and nothing but BR reads it (R28). -/
def Obligations.OnlySevenInstructionsSetTheFlag : Prop :=
  (∀ (i : Instr) (s t : State), exec i s = .next t →
    (∀ dr, Instr.flagDest i = some dr → FlagFollows (t.reg dr) t.cond) ∧ (Instr.flagDest i = none → t.cond = s.cond)) ∧
  (∀ (s t : State) (c : Cond), s.dstate ≠ .idle → step s = .next t →
    t.cond = s.cond ∧ step (s.setCond c) = .next (t.setCond c)) ∧
  (∀ (i : Instr) (s t : State) (c : Cond), (∀ nzp off, i ≠ .br nzp off) → exec i s = .next t →
    exec i (s.setCond c) = .next (t.setCond (if Instr.flagDest i = none then c else t.cond)))

/-! ### Operate instructions (40_operate.md) -/

/-- ADD, both forms: every word of opcode 1 decodes to the form its bit 5 selects, and the sum modulo 2^16 goes to DR and sets the
flag, nothing else changes (R111; that bits 4 and 3 of the register form are ignored is the spec's own decision D5). -/
def Obligations.AddWritesTheSum : Prop :=
  (∀ w : Word, w.extractLsb' 12 4 = 0b0001#4 →
    decode w = if w.getLsbD 5 then .addImm (w.extractLsb' 9 3).toFin (w.extractLsb' 6 3).toFin (w.extractLsb' 0 5)
      else .addReg (w.extractLsb' 9 3).toFin (w.extractLsb' 6 3).toFin (w.extractLsb' 0 3).toFin) ∧
  (∀ (s : State) (dr sr1 sr2 : Reg), ∃ t, exec (.addReg dr sr1 sr2) s = .next t ∧
    WritesDest dr (BitVec.ofNat 16 ((s.reg sr1).toNat + (s.reg sr2).toNat)) s t) ∧
  (∀ (s : State) (dr sr1 : Reg) (imm : BitVec 5), ∃ t, exec (.addImm dr sr1 imm) s = .next t ∧
    WritesDest dr (BitVec.ofInt 16 ((s.reg sr1).toNat + imm.toInt)) s t)

/-- AND, both forms: every word of opcode 5 decodes to the form its bit 5 selects, and the conjunction goes to DR and sets the
flag, nothing else changes (R112; that bits 4 and 3 of the register form are ignored is the spec's own decision D5). -/
def Obligations.AndWritesTheConjunction : Prop :=
  (∀ w : Word, w.extractLsb' 12 4 = 0b0101#4 →
    decode w = if w.getLsbD 5 then .andImm (w.extractLsb' 9 3).toFin (w.extractLsb' 6 3).toFin (w.extractLsb' 0 5)
      else .andReg (w.extractLsb' 9 3).toFin (w.extractLsb' 6 3).toFin (w.extractLsb' 0 3).toFin) ∧
  (∀ (s : State) (dr sr1 sr2 : Reg), ∃ t, exec (.andReg dr sr1 sr2) s = .next t ∧
    WritesDest dr (s.reg sr1 &&& s.reg sr2) s t) ∧
  (∀ (s : State) (dr sr1 : Reg) (imm : BitVec 5), ∃ t, exec (.andImm dr sr1 imm) s = .next t ∧
    WritesDest dr (s.reg sr1 &&& sext imm) s t)

/-- NOT: every word of opcode 9 decodes to it, and 0xFFFF less SR, which is SR's bits complemented, goes to DR and sets the flag,
nothing else changes (R113; that bits 5 to 0 are ignored is the spec's own decision D5). -/
def Obligations.NotWritesTheComplement : Prop :=
  (∀ w : Word, w.extractLsb' 12 4 = 0b1001#4 → decode w = .notOp (w.extractLsb' 9 3).toFin (w.extractLsb' 6 3).toFin) ∧
  (∀ (s : State) (dr sr : Reg), ∃ t, exec (.notOp dr sr) s = .next t ∧ WritesDest dr (0xFFFF#16 - s.reg sr) s t)

/-! ### Addresses, loads and stores (42_load_store.md) -/

/-- The four effective-address modes, modulo 2^16 (R130). -/
def Obligations.EffectiveAddressesFollowTheModes : Prop :=
  ∀ (s : State) (base : Reg) (off9 : BitVec 9) (off6 : BitVec 6),
    eaPcRelative off9 s = BitVec.ofInt 16 (s.pc.toNat + off9.toInt) ∧
    eaIndirect off9 s = s.memRead (BitVec.ofInt 16 (s.pc.toNat + off9.toInt)) ∧
    eaBaseOffset base off6 s = BitVec.ofInt 16 ((s.reg base).toNat + off6.toInt) ∧
    eaRegister base s = s.reg base

/-- LD: every word of opcode 2 decodes to it; the word at `pc` + sext(offset), `pc` being A + 1, goes to DR and sets the flag, and
nothing else changes (R131). -/
def Obligations.LdLoadsPcRelative : Prop :=
  (∀ w : Word, w.extractLsb' 12 4 = 0b0010#4 → decode w = .ld (w.extractLsb' 9 3).toFin (w.extractLsb' 0 9)) ∧
  (∀ (s : State) (dr : Reg) (off : BitVec 9), ∃ t, exec (.ld dr off) s = .next t ∧
    WritesDest dr (s.memRead (s.pc + sext off)) s t)

/-- LDI: every word of opcode 10 decodes to it; the word at the address held at `pc` + sext(offset) goes to DR and sets the flag,
and nothing else changes (R132). -/
def Obligations.LdiLoadsThroughThePointer : Prop :=
  (∀ w : Word, w.extractLsb' 12 4 = 0b1010#4 → decode w = .ldi (w.extractLsb' 9 3).toFin (w.extractLsb' 0 9)) ∧
  (∀ (s : State) (dr : Reg) (off : BitVec 9), ∃ t, exec (.ldi dr off) s = .next t ∧
    WritesDest dr (s.memRead (s.memRead (s.pc + sext off))) s t)

/-- LDR: every word of opcode 6 decodes to it; the word at BaseR, read before DR is written, + sext(offset) goes to DR and sets
the flag, and nothing else changes (R133). -/
def Obligations.LdrLoadsBasePlusOffset : Prop :=
  (∀ w : Word, w.extractLsb' 12 4 = 0b0110#4 →
    decode w = .ldr (w.extractLsb' 9 3).toFin (w.extractLsb' 6 3).toFin (w.extractLsb' 0 6)) ∧
  (∀ (s : State) (dr base : Reg) (off : BitVec 6), ∃ t, exec (.ldr dr base off) s = .next t ∧
    WritesDest dr (s.memRead (s.reg base + sext off)) s t)

/-- LEA: every word of opcode 14 decodes to it; the address `pc` + sext(offset) itself goes to DR and sets the flag, nothing else
changes, and what memory holds does not matter (R134). -/
def Obligations.LeaWritesTheAddress : Prop :=
  (∀ w : Word, w.extractLsb' 12 4 = 0b1110#4 → decode w = .lea (w.extractLsb' 9 3).toFin (w.extractLsb' 0 9)) ∧
  (∀ (s : State) (dr : Reg) (off : BitVec 9), ∃ t, exec (.lea dr off) s = .next t ∧
    WritesDest dr (BitVec.ofInt 16 (s.pc.toNat + off.toInt)) s t) ∧
  (∀ (s t : State) (m : Memory) (dr : Reg) (off : BitVec 9), exec (.lea dr off) s = .next t →
    ∃ t', exec (.lea dr off) { s with mem := m } = .next t' ∧ t'.regs = t.regs ∧ t'.cond = t.cond)

/-- ST (R135): every word of opcode 3 decodes to it; the one cell written is the one at the PC-relative address; no flag, no
register, no other cell changes; offset 0 writes the cell the next fetch reads. -/
def Obligations.StStoresPcRelative : Prop :=
  (∀ w : Word, w.extractLsb' 12 4 = 0b0011#4 → decode w = .st (w.extractLsb' 9 3).toFin (w.extractLsb' 0 9)) ∧
  (∀ (s : State) (sr : Reg) (off : BitVec 9), ∃ t, exec (.st sr off) s = .next t ∧
    WritesCell (eaPcRelative off s) (s.reg sr) s t) ∧
  (∀ (s : State) (off : BitVec 9), eaPcRelative off s = s.pc + sext off) ∧
  (∀ (s t : State) (sr : Reg), exec (.st sr 0#9) s = .next t → t.memRead t.pc = s.reg sr)

/-- STI: every word of opcode 11 decodes to it; the one cell written, with SR, is the one at the address held at `pc` +
sext(offset) before the store; no flag, no register, no other cell changes (R136). -/
def Obligations.StiStoresThroughThePointer : Prop :=
  (∀ w : Word, w.extractLsb' 12 4 = 0b1011#4 → decode w = .sti (w.extractLsb' 9 3).toFin (w.extractLsb' 0 9)) ∧
  (∀ (s : State) (sr : Reg) (off : BitVec 9), ∃ t, exec (.sti sr off) s = .next t ∧
    WritesCell (eaIndirect off s) (s.reg sr) s t) ∧
  (∀ (s : State) (off : BitVec 9), eaIndirect off s = s.memRead (s.pc + sext off))

/-- STR: every word of opcode 7 decodes to it; the one cell written, with SR, is the one at BaseR + sext(offset); no flag, no
register, no other cell changes (R137). -/
def Obligations.StrStoresBasePlusOffset : Prop :=
  (∀ w : Word, w.extractLsb' 12 4 = 0b0111#4 →
    decode w = .str (w.extractLsb' 9 3).toFin (w.extractLsb' 6 3).toFin (w.extractLsb' 0 6)) ∧
  (∀ (s : State) (sr base : Reg) (off : BitVec 6), ∃ t, exec (.str sr base off) s = .next t ∧
    WritesCell (eaBaseOffset base off s) (s.reg sr) s t) ∧
  (∀ (s : State) (base : Reg) (off : BitVec 6), eaBaseOffset base off s = s.reg base + sext off)

/-- A word stored by STR is the one LDR then loads from the same address, and a load from any other address still reads what was
there before (R52, for one store and one load). -/
def Obligations.LoadAfterStoreReadsTheStoredWord : Prop :=
  ∀ (s t : State) (sr base dr base' : Reg) (off off' : BitVec 6), exec (.str sr base off) s = .next t →
    ∃ u, exec (.ldr dr base' off') t = .next u ∧
      (eaBaseOffset base' off' s = eaBaseOffset base off s → u.reg dr = s.reg sr) ∧
      (eaBaseOffset base' off' s ≠ eaBaseOffset base off s → u.reg dr = s.memRead (eaBaseOffset base' off' s))

/-- Memories in canonical form that read alike at every address are equal data (the canonical form is the model's own, log 1). -/
def Obligations.CanonicalMemoriesReadAlikeAreEqual : Prop :=
  ∀ m n : Memory, m.wf = true → n.wf = true → (∀ a : Word, m.get a.toNat = n.get a.toNat) → m = n

/-! ### Control transfer (41_control.md) -/

/-- BR (R120): taken exactly when nzp selects the flag that holds, to A + 1 plus the offset modulo 2^16; nothing but `pc` changes.
That ir[11], ir[10], ir[9] test N, Z, P, and the flag's one-hot word, are the spec's own decision D2. -/
def Obligations.BrTestsTheSelectedFlags : Prop :=
  (∀ w : Word, w.extractLsb' 12 4 = 0b0000#4 → decode w = .br (w.extractLsb' 9 3) (w.extractLsb' 0 9)) ∧
  (∀ (s : State) (nzp : BitVec 3) (off : BitVec 9), ∃ t, exec (.br nzp off) s = .next t ∧
    t.pc = (if (nzp.getLsbD 2 = true ∧ s.cond = .n) ∨ (nzp.getLsbD 1 = true ∧ s.cond = .z) ∨
        (nzp.getLsbD 0 = true ∧ s.cond = .p) then BitVec.ofInt 16 (s.pc.toNat + off.toInt) else s.pc) ∧
    t.cond = s.cond ∧ s.SameRegs t ∧ s.SameMem t ∧ s.SameRest t) ∧
  (∀ c : Cond, (c.bits.getLsbD 2 = true ↔ c = .n) ∧ (c.bits.getLsbD 1 = true ↔ c = .z) ∧ (c.bits.getLsbD 0 = true ↔ c = .p))

/-- JMP, and RET as JMP R7: every word of opcode 12 decodes to it, and only `pc` changes, to BaseR (R121; that bits 11 to 9 and 5
to 0 are ignored is the spec's own decision D5). -/
def Obligations.JmpGoesToTheRegister : Prop :=
  (∀ w : Word, w.extractLsb' 12 4 = 0b1100#4 → decode w = .jmp (w.extractLsb' 6 3).toFin) ∧ decode 0xC1C0#16 = .jmp 7 ∧
  (∀ (s : State) (base : Reg), ∃ t, exec (.jmp base) s = .next t ∧ t.pc = s.reg base ∧
    t.cond = s.cond ∧ s.SameRegs t ∧ s.SameMem t ∧ s.SameRest t)

/-- JSR (R122): every word of opcode 4 with bit 11 set decodes to it; R7 takes A + 1, `pc` takes A + 1 plus the offset modulo
2^16; nothing else changes. -/
def Obligations.JsrLinksAndJumps : Prop :=
  (∀ w : Word, w.extractLsb' 12 4 = 0b0100#4 → w.getLsbD 11 = true → decode w = .jsr (w.extractLsb' 0 11)) ∧
  (∀ (s : State) (off : BitVec 11), ∃ t, exec (.jsr off) s = .next t ∧ t.reg 7 = s.pc ∧
    t.pc = BitVec.ofInt 16 (s.pc.toNat + off.toInt) ∧ s.SameRegsBut 7 t ∧ t.cond = s.cond ∧ s.SameMem t ∧ s.SameRest t)

/-- JSRR (R123): every word of opcode 4 with bit 11 clear decodes to it; R7 takes A + 1, `pc` takes BaseR read after that, so JSRR
R7 goes to A + 1 (the spec's own decisions D6, and D5 for the ignored bits). -/
def Obligations.JsrrLinksBeforeReadingTheBase : Prop :=
  (∀ w : Word, w.extractLsb' 12 4 = 0b0100#4 → w.getLsbD 11 = false → decode w = .jsrr (w.extractLsb' 6 3).toFin) ∧
  (∀ (s : State) (base : Reg), ∃ t, exec (.jsrr base) s = .next t ∧ t.reg 7 = s.pc ∧
    (base ≠ 7 → t.pc = s.reg base) ∧ (base = 7 → t.pc = s.pc) ∧
    s.SameRegsBut 7 t ∧ t.cond = s.cond ∧ s.SameMem t ∧ s.SameRest t)

/-! ### Whole-machine rules over the instructions -/

/-- The fetch puts the word at `pc` in `ir` and advances `pc` by one modulo 2^16, and after that only a taken BR, JMP, JSR and
JSRR write `pc`; no step of a service moves it (R24). -/
def Obligations.OnlyFourInstructionsMovePc : Prop :=
  (∀ s t : State, s.ReadyToFetch → step s = .next t → t.ir = s.memRead s.pc ∧
    (t.pc = BitVec.ofNat 16 (s.pc.toNat + 1) ∨
      (∃ nzp off, decode (s.memRead s.pc) = .br nzp off ∧ t.pc = BitVec.ofInt 16 (s.pc.toNat + 1 + off.toInt)) ∨
      (∃ base, decode (s.memRead s.pc) = .jmp base) ∨ (∃ off, decode (s.memRead s.pc) = .jsr off) ∨
      (∃ base, decode (s.memRead s.pc) = .jsrr base))) ∧
  (∀ s t : State, s.dstate ≠ .idle → step s = .next t → t.pc = s.pc)

/-- No step changes a register other than the instruction's named destination, R7 by JSR and JSRR, and R0 by GETC and IN at the
step that ends them (R22; that TRAP leaves R7 alone is the spec's own decision D7, an abort D19). -/
def Obligations.RegistersChangeOnlyAsNamed : Prop :=
  ∀ (s t : State) (r : Reg), step s = .next t → t.reg r ≠ s.reg r →
    (s.ReadyToFetch ∧ Instr.writtenReg (decode (s.memRead s.pc)) = some r) ∨
    (r = 0 ∧ (s.dstate = .getcWait ∨ ∃ b, s.dstate = .inEcho b) ∧ t.dstate = .idle)

/-- A step changes memory only at the address that the fetched ST, STI or STR stores to; loads, services, faults and aborts change
no cell (20_memory.md section 2, the access table; an abort is the spec's own decision D19). -/
def Obligations.MemoryChangesOnlyAtTheStoreAddress : Prop :=
  ∀ (s t : State) (a : Word), step s = .next t → t.memRead a ≠ s.memRead a →
    s.ReadyToFetch ∧ Instr.storeAddress (decode (s.memRead s.pc)) s.fetch = some a

/-- A store to A + 1, by ST, STI or STR, replaces the very next instruction with the stored register's word, with no
synchronisation (derived by the spec in 20_memory.md section 5 and 70_reset_and_hazards.md section 3). That no abort comes between
the two steps is a premise on the model's schedule (log 7). -/
def Obligations.StoreIsSeenByTheNextFetch : Prop :=
  ∀ (s : State) (sr : Reg), s.ReadyToFetch → s.NoAbortFor 2 → Instr.storeSource (decode (s.memRead s.pc)) = some sr →
    Instr.storeAddress (decode (s.memRead s.pc)) s.fetch = some (s.pc + 1#16) →
    ∃ t, step s = .next t ∧ t.ReadyToFetch ∧ t.pc = s.pc + 1#16 ∧
      step t = exec (decode (s.reg sr)) { t with ir := s.reg sr, pc := s.pc + 2#16, abortAfter := t.abortAfter.map (· - 1) }

/-- An instruction step does not read what `ir` held before its fetch (R30). -/
def Obligations.FetchOverwritesTheInstructionRegister : Prop :=
  ∀ (s : State) (w : Word), s.ReadyToFetch → step (s.setIr w) = step s

/-! ### TRAP and the services (43_trap.md) -/

/-- `Dispatch` depends on the code alone: the six codes start their services, PUTS and PUTSP with R0 as the scan address, every
other code raises ILLEGAL_TRAP; the six service rows and the TRAP row do the same (R152; the fault is the spec's own decisions
D16, D17, D18). TRAP writes no register, R7 included (the spec's own decision D7), no flag, no `pc`, no memory and no output. -/
def Obligations.TrapStartsTheServiceOfItsCode : Prop :=
  (∀ (s : State) (code : BitVec 8), ∃ t, exec (.trap code) s = .next t ∧
    (code = 0x20#8 → t.dstate = .getcWait) ∧ (code = 0x21#8 → t.dstate = .outEmit) ∧
    (code = 0x22#8 → t.dstate = .putsScan (s.reg 0)) ∧ (code = 0x23#8 → t.dstate = .inPrompt 0) ∧
    (code = 0x24#8 → t.dstate = .putspLo (s.reg 0)) ∧ (code = 0x25#8 → t.dstate = .haltNotice 0) ∧
    (0x20 ≤ code.toNat ∧ code.toNat ≤ 0x25 → t.estate = s.estate ∧ s.SameRecord t) ∧
    (code.toNat < 0x20 ∨ 0x25 < code.toNat → t.estate = .faulted ∧ t.faultCause = 0x3#4 ∧ t.dstate = .idle) ∧
    s.SameRegs t ∧ t.pc = s.pc ∧ t.cond = s.cond ∧ t.ir = s.ir ∧ s.SameMem t ∧ s.SameStreams t ∧ s.SameTexts t) ∧
  (∀ s : State, exec .trapGetc s = exec (.trap 0x20#8) s ∧ exec .trapOut s = exec (.trap 0x21#8) s ∧
    exec .trapPuts s = exec (.trap 0x22#8) s ∧ exec .trapIn s = exec (.trap 0x23#8) s ∧
    exec .trapPutsp s = exec (.trap 0x24#8) s ∧ exec .trapHalt s = exec (.trap 0x25#8) s)

/-- Each service row's instruction answers a next state in which its service waits to run, and nothing but `dstate` has changed
(43_trap.md section 2, the table of `Dispatch`; R7 unchanged and the separate service steps are the spec's own decisions D7, D23).
-/
def Obligations.ServiceInstructionsEnterTheirService : Prop :=
  ∀ (s : State) (i : Instr) (d : DState),
    (i, d) ∈ [(Instr.trapGetc, DState.getcWait), (.trapOut, .outEmit), (.trapPuts, .putsScan (s.reg 0)), (.trapIn, .inPrompt 0),
      (.trapPutsp, .putspLo (s.reg 0)), (.trapHalt, .haltNotice 0)] →
    ∃ t, exec i s = .next t ∧ t.dstate = d ∧ t.estate = s.estate ∧ s.SameRegs t ∧ t.pc = s.pc ∧ t.cond = s.cond ∧
      t.ir = s.ir ∧ s.SameMem t ∧ s.SameStreams t ∧ s.SameTexts t ∧ s.SameRecord t ∧ t.abortAfter = s.abortAfter

/-- GETC from its fetch to its end (43_trap.md section 3). With a byte at the port, two steps: R0 is the byte zero-extended (the
spec's own decision D8), one byte is consumed, nothing is emitted. With END-OF-INPUT, two steps: INPUT_EOF (D9), R0 unchanged,
nothing consumed or emitted; that END-OF-INPUT stays at the port is the model's choice (log 6). The two steps and R7 unchanged are
D23, D7. -/
def Obligations.GetcReadsOneByte : Prop :=
  ∀ s : State, s.ReadyToFetch → s.NoAbortFor 2 → decode (s.memRead s.pc) = .trapGetc →
    (∀ b rest, s.input = .byte b :: rest → ∃ t, steps 2 s = .next t ∧ t.reg 0 = BitVec.ofNat 16 b.toNat ∧
      t.consumed = s.consumed ++ [b] ∧ t.input = rest ∧ t.output = s.output ∧ t.estate = .running ∧ t.dstate = .idle ∧
      s.SameRecord t ∧ ServiceKeeps s t) ∧
    (∀ rest, s.input = .endOfInput :: rest → ∃ t, steps 2 s = .next t ∧ t.reg 0 = s.reg 0 ∧
      t.estate = .faulted ∧ t.faultCause = 0x4#4 ∧ t.faultPc = s.pc ∧ t.faultIr = s.memRead s.pc ∧ t.dstate = .idle ∧
      s.SameStreams t ∧ ServiceKeeps s t)

/-- OUT from its fetch to its end: two steps emit the low byte of R0 and change no register (R154; the two steps and R7 unchanged
are the spec's own decisions D23, D7). -/
def Obligations.OutEmitsTheLowByteOfR0 : Prop :=
  ∀ s : State, s.ReadyToFetch → s.NoAbortFor 2 → decode (s.memRead s.pc) = .trapOut →
    ∃ t, steps 2 s = .next t ∧ t.output = s.output ++ [BitVec.ofNat 8 (s.reg 0).toNat] ∧ t.reg 0 = s.reg 0 ∧
      t.consumed = s.consumed ∧ t.input = s.input ∧ t.estate = .running ∧ t.dstate = .idle ∧ s.SameRecord t ∧ ServiceKeeps s t

/-- PUTS from its fetch to its end over any string of non-zero cells closed by a zero cell, wrapping at 0xFFFF: the low byte of
each cell is emitted (the spec's own decision D13), in k + 2 steps for k characters (D23), and R0 is unchanged, and R7 (D7). -/
def Obligations.PutsPrintsUpToTheZeroCell : Prop :=
  ∀ (s : State) (cs : List Word), s.ReadyToFetch → s.NoAbortFor (cs.length + 2) → decode (s.memRead s.pc) = .trapPuts →
    (∀ k, (h : k < cs.length) → s.memRead (s.reg 0 + BitVec.ofNat 16 k) = cs[k] ∧ cs[k] ≠ 0x0000#16) →
    s.memRead (s.reg 0 + BitVec.ofNat 16 cs.length) = 0x0000#16 →
    ∃ t, steps (cs.length + 2) s = .next t ∧ t.output = s.output ++ cs.map (fun c => BitVec.ofNat 8 c.toNat) ∧
      t.reg 0 = s.reg 0 ∧ t.consumed = s.consumed ∧ t.input = s.input ∧ t.estate = .running ∧ t.dstate = .idle ∧
      s.SameRecord t ∧ ServiceKeeps s t

/-- PUTS over memory without a zero cell never ends: after any number of steps it is still scanning and has emitted one byte a
step (the spec's own decisions D27, D23). -/
def Obligations.PutsWithoutTerminatorNeverEnds : Prop :=
  ∀ (s : State) (a : Word) (k : Nat), s.estate = .running → s.dstate = .putsScan a → s.NoAbortFor k →
    (∀ x, s.memRead x ≠ 0x0000#16) →
    ∃ t, steps k s = .next t ∧ t.estate = .running ∧ t.dstate = .putsScan (a + BitVec.ofNat 16 k) ∧
      t.output.length = s.output.length + k

/-- IN from its fetch to its end, for every prompt (the spec's own decisions D8, D9, D10, D12): the prompt, then with a byte at
the port its echo and R0; with END-OF-INPUT the fault INPUT_EOF after the prompt, R0 unchanged. The count of steps and R7
unchanged are D23, D7. -/
def Obligations.InPromptsReadsAndEchoes : Prop :=
  ∀ s : State, s.ReadyToFetch → s.NoAbortFor (s.promptText.length + 4) → decode (s.memRead s.pc) = .trapIn →
    (∀ b rest, s.input = .byte b :: rest → ∃ t, steps (s.promptText.length + 4) s = .next t ∧
      t.output = s.output ++ s.promptText ++ [b] ∧ t.reg 0 = BitVec.ofNat 16 b.toNat ∧ t.consumed = s.consumed ++ [b] ∧
      t.input = rest ∧ t.estate = .running ∧ t.dstate = .idle ∧ s.SameRecord t ∧ ServiceKeeps s t) ∧
    (∀ rest, s.input = .endOfInput :: rest → ∃ t, steps (s.promptText.length + 3) s = .next t ∧
      t.output = s.output ++ s.promptText ∧ t.reg 0 = s.reg 0 ∧ t.consumed = s.consumed ∧ t.estate = .faulted ∧
      t.faultCause = 0x4#4 ∧ t.faultPc = s.pc ∧ t.faultIr = s.memRead s.pc ∧ t.dstate = .idle ∧ ServiceKeeps s t)

/-- PUTSP from its fetch to its end: full cells emit their low then their high byte, and the last cell ends the string at its
first zero byte, low or high (the spec's own decision D14); R0 is unchanged, and R7 (D7); the bound on the steps is D23. -/
def Obligations.PutspPrintsUpToTheZeroByte : Prop :=
  ∀ (s : State) (cs : List Word) (z : Word), s.ReadyToFetch → s.NoAbortFor (2 * cs.length + 3) →
    decode (s.memRead s.pc) = .trapPutsp →
    (∀ k, (h : k < cs.length) → s.memRead (s.reg 0 + BitVec.ofNat 16 k) = cs[k] ∧ lowByte cs[k] ≠ 0#8 ∧ highByte cs[k] ≠ 0#8) →
    s.memRead (s.reg 0 + BitVec.ofNat 16 cs.length) = z → lowByte z = 0#8 ∨ highByte z = 0#8 →
    ∃ k t, k ≤ 2 * cs.length + 3 ∧ steps k s = .next t ∧
      t.output = s.output ++ cs.flatMap (fun c => [lowByte c, highByte c]) ++ (if lowByte z = 0#8 then [] else [lowByte z]) ∧
      t.reg 0 = s.reg 0 ∧ t.consumed = s.consumed ∧ t.input = s.input ∧ t.estate = .running ∧ t.dstate = .idle ∧
      s.SameRecord t ∧ ServiceKeeps s t

/-- HALT from its fetch to its end, for every notice (the spec's own decision D11): the notice is emitted, the engine is HALTED
with `pc` = A + 1, no register, flag or cell has changed, and there is no step after it, whatever memory holds. R7 unchanged and
the count of steps are D7, D23; that the stop is a named Fault is the model's choice (log 8). -/
def Obligations.HaltEmitsTheNoticeAndStops : Prop :=
  ∀ s : State, s.ReadyToFetch → s.NoAbortFor (s.noticeText.length + 2) → decode (s.memRead s.pc) = .trapHalt →
    ∃ t, steps (s.noticeText.length + 2) s = .next t ∧ t.estate = .halted ∧ t.output = s.output ++ s.noticeText ∧
      t.reg 0 = s.reg 0 ∧ t.consumed = s.consumed ∧ t.input = s.input ∧ t.dstate = .idle ∧ s.SameRecord t ∧
      ServiceKeeps s t ∧ step t = .fault .engineHalted

/-- A dispatcher step writes only R0 (at the last step of GETC and IN), the streams, the engine state, the fault record and the
dispatcher state (derived by the spec, 43_trap.md section 4, from the steps of its own decision D23; FAULTED and ABORTED are D18,
D19). -/
def Obligations.ServicesWriteOnlyWhatTheyMay : Prop :=
  ∀ s t : State, s.dstate ≠ .idle → step s = .next t →
    s.SameMem t ∧ t.cond = s.cond ∧ t.pc = s.pc ∧ t.ir = s.ir ∧ s.SameRegsBut 0 t ∧ s.SameTexts t ∧
    (t.reg 0 ≠ s.reg 0 → (s.dstate = .getcWait ∨ ∃ b, s.dstate = .inEcho b) ∧ t.dstate = .idle) ∧
    (t.estate ≠ s.estate → t.estate = .aborted ∨ t.dstate = .idle) ∧
    (¬ s.SameRecord t → t.estate = .faulted)

/-- A step emits at most one byte, at the end of the output, and an instruction step none (43_trap.md section 2; the step's
granularity is the spec's own decision D23). -/
def Obligations.OutputGrowsByAtMostOneByte : Prop :=
  ∀ s t : State, step s = .next t →
    (t.output = s.output ∨ ∃ b, t.output = s.output ++ [b]) ∧ (s.dstate = .idle → t.output = s.output)

/-- A step takes at most one byte from the front of the port, into the consumed prefix; the two together never change; only GETC
and IN, in their wait states, take one (10_state.md section 5; that END-OF-INPUT stays at the port is the model's choice, log 6).
-/
def Obligations.InputIsConsumedInOrder : Prop :=
  ∀ s t : State, step s = .next t →
    t.consumed.map Delivery.byte ++ t.input = s.consumed.map Delivery.byte ++ s.input ∧
    t.consumed.length ≤ s.consumed.length + 1 ∧
    (t.consumed ≠ s.consumed → s.dstate = .getcWait ∨ s.dstate = .inWait)

/-! ### Stops (60_exceptions.md, 44_illegal.md, 70_reset_and_hazards.md) -/

/-- RTI and RESERVED always raise their fault: next state FAULTED, the record holding the cause, A and the word, nothing else
changed; and every word of the two opcodes is one (44_illegal.md; the fault, the record's codes and A rather than A + 1, and the
state FAULTED are the spec's own decisions D16, D17, D18, the ignored bits D5). -/
def Obligations.IllegalOpcodesRaiseTheirFault : Prop :=
  (∀ w : Word, (w.extractLsb' 12 4 = 0b1000#4 → decode w = .rti) ∧ (w.extractLsb' 12 4 = 0b1101#4 → decode w = .reserved)) ∧
  (∀ s : State, ∃ t, exec .rti s = .next t ∧ StopsByFault 0x1#4 s t) ∧
  (∀ s : State, ∃ t, exec .reserved s = .next t ∧ StopsByFault 0x2#4 s t)

/-- From the fetch: a step that runs an illegal opcode or an unknown trap code leaves FAULTED with `fault_pc` the address fetched
from, `fault_ir` the word there and the cause of R200, `pc` = A + 1, and no register, flag, cell or stream changed (the spec's own
decisions D16, D17, D18; the step after it answering a named Fault is the model's choice, log 8). -/
def Obligations.IllegalWordsStopTheEngine : Prop :=
  ∀ (s : State) (cause : BitVec 4), s.ReadyToFetch →
    ((cause = 0x1#4 ∧ decode (s.memRead s.pc) = .rti) ∨ (cause = 0x2#4 ∧ decode (s.memRead s.pc) = .reserved) ∨
      (cause = 0x3#4 ∧ ∃ code : BitVec 8, (code.toNat < 0x20 ∨ 0x25 < code.toNat) ∧ decode (s.memRead s.pc) = .trap code)) →
    ∃ t, step s = .next t ∧ t.estate = .faulted ∧ t.faultCause = cause ∧ t.faultPc = s.pc ∧ t.faultIr = s.memRead s.pc ∧
      t.pc = s.pc + 1#16 ∧ t.dstate = .idle ∧ s.SameRegs t ∧ t.cond = s.cond ∧ s.SameMem t ∧ s.SameStreams t ∧
      step t = .fault .engineFaulted

/-- Faults are precise: a step into FAULTED changes no register, flag or cell, consumes and emits nothing, and the record names
the fetched word, the address it came from and one of the four causes (60_exceptions.md section 1; the spec's own decisions D9,
D16, D17, D18). That the port too is unchanged, END-OF-INPUT staying there, is the model's choice (log 6). -/
def Obligations.FaultsArePrecise : Prop :=
  ∀ s t : State, step s = .next t → t.estate = .faulted →
    s.SameRegs t ∧ t.cond = s.cond ∧ s.SameMem t ∧ s.SameStreams t ∧ t.dstate = .idle ∧
    t.faultIr = t.ir ∧ t.faultPc = t.pc - 1#16 ∧
    (t.faultCause = 0x1#4 ∨ t.faultCause = 0x2#4 ∨ t.faultCause = 0x3#4 ∨ t.faultCause = 0x4#4)

/-- The terminal states have no step, so no run goes on from one (10_state.md section 4; FAULTED and ABORTED are the spec's own
decisions D18, D19; answering a named Fault is the model's choice, log 8). -/
def Obligations.TerminalStatesHaveNoStep : Prop :=
  ∀ s : State, s.estate ≠ .running →
    step s = .fault (if s.estate = .halted then .engineHalted else if s.estate = .faulted then .engineFaulted else .engineAborted) ∧
    ∀ k t, steps (k + 1) s ≠ .next t

/-- A RUNNING machine has no step exactly when it waits for input that is not delivered and no abort comes; there is no other
stop, for no instruction word, address or operand (43_trap.md section 4; illegal words and end of input stepping to FAULTED are
the spec's own decisions D16, D9; the Fault's name and the abort's schedule are the model's choice, log 8, 7). -/
def Obligations.OnlyAnUnansweredWaitHasNoStep : Prop :=
  ∀ s : State, s.estate = .running →
    ((¬ ∃ t, step s = .next t) ↔
      (s.dstate = .getcWait ∨ s.dstate = .inWait) ∧ s.input = [] ∧ s.abortAfter = none) ∧
    ((¬ ∃ t, step s = .next t) → step s = .fault .awaitingInput)

/-- HALTED is entered only by the last step of the HALT service (70_reset_and_hazards.md section 5, 43_trap.md section 3; the
step's granularity is the spec's own decision D23). -/
def Obligations.HaltedIsReachedOnlyThroughHalt : Prop :=
  ∀ s t : State, step s = .next t → t.estate = .halted →
    (∃ i, s.dstate = .haltNotice i ∧ s.noticeText.length ≤ i) ∧ t.dstate = .idle ∧ t.pc = s.pc ∧ t.cond = s.cond ∧
    s.SameRegs t ∧ s.SameMem t ∧ s.SameStreams t ∧ s.SameRecord t

/-- An abort that is due is the step taken: `estate` becomes ABORTED and everything else keeps its value, and the aborted state
has no step, `step` answering the Fault `engineAborted`; the abort lands at once while the machine waits with nothing delivered;
every other step brings it one boundary nearer (60_exceptions.md section 2, 70_reset_and_hazards.md section 2, the spec's own
decision D19; the schedule is the model's choice, log 7, and so is the named Fault where there is no step, log 8). -/
def Obligations.AbortChangesOnlyTheEngineState : Prop :=
  (∀ (s : State) (n : Nat), s.estate = .running → s.abortAfter = some n →
    (n = 0 ∨ ((s.dstate = .getcWait ∨ s.dstate = .inWait) ∧ s.input = [])) →
    step s = .next { s with estate := .aborted } ∧ step { s with estate := .aborted } = .fault .engineAborted) ∧
  (∀ s t : State, step s = .next t → s.abortDue = false → t.abortAfter = s.abortAfter.map (· - 1))

/-- Every abort timing is admitted: whatever state a run without an abort reaches after n steps, the host can abort it there, and
the steps before are the same (60_exceptions.md sections 2 and 3, the spec's own decision D19; the schedule is the model's, log
7). -/
def Obligations.AbortMayLandAfterAnyStep : Prop :=
  ∀ (s t : State) (n : Nat), s.abortAfter = none → steps n s = .next t → t.estate = .running →
    steps (n + 1) (s.scheduleAbort n) = .next { t with estate := .aborted, abortAfter := some 0 }

/-- Engine transitions: a step leaves RUNNING, or goes to HALTED, FAULTED or ABORTED, and starts in RUNNING (10_state.md section
4; FAULTED and ABORTED are the spec's own decisions D18, D19); the fault record, D17, changes only when FAULTED is entered. -/
def Obligations.FaultRecordIsWrittenOnlyOnFault : Prop :=
  ∀ s t : State, step s = .next t → s.estate = .running ∧ (¬ s.SameRecord t → t.estate = .faulted)

/-! ### The step and reset (70_reset_and_hazards.md) -/

/-- The step at a state about to fetch is the decoded instruction's meaning at the fetched state: `ir` the word at `pc`, `pc` one
further, every other register, cell and stream as before (R244). -/
def Obligations.StepRunsTheDecodedInstruction : Prop :=
  ∀ (s : State) (i : Instr), s.ReadyToFetch → decode (s.memRead s.pc) = i →
    ∃ f : State, step s = exec i f ∧ f.ir = s.memRead s.pc ∧ f.pc = BitVec.ofNat 16 (s.pc.toNat + 1) ∧ f.cond = s.cond ∧
      s.SameRegs f ∧ s.SameMem f ∧ s.SameEngine f ∧ s.SameRecord f ∧ s.SameStreams f ∧ s.SameTexts f

/-- The same word placed by `withFetchWord` is the one the very next step runs, from every state (the placing is the model's, log
12). -/
def Obligations.PlacedWordRunsNext : Prop :=
  ∀ (s : State) (w : Word), (s.withFetchWord 16 w.toNat).ReadyToFetch ∧
    decodeTableWord 16 w.toNat = some (decode w) ∧
    ∃ f : State, step (s.withFetchWord 16 w.toNat) = exec (decode w) f ∧ f.ir = w ∧ f.pc = s.pc + 1#16 ∧ s.SameRegs f ∧
      s.SameMemBut s.pc f

/-- Reset with an image that loads leaves the state that 70_reset_and_hazards.md section 1 lists, for every value of the open
parameters, the undelivered input and the two texts among them; an image that does not load leaves no state. The fault record's
registers are the spec's own decision D17; the fields that hold input, texts and abort are the model's (log 5, 6, 7). -/
def Obligations.ResetLeavesTheListedState : Prop :=
  ∀ (p : Params) (image : Option (List Byte)),
    (∀ m, load image = .ok m → ∃ s, launch p image = .ok s ∧ s.mem = m ∧ s.pc = 0x3000#16 ∧
      (∀ r : Reg, s.reg r = p.gprReset[r]) ∧ s.cond = p.condReset ∧ s.estate = .running ∧ s.dstate = .idle ∧
      s.faultCause = 0#4 ∧ s.faultPc = 0#16 ∧ s.faultIr = 0#16 ∧ s.output = [] ∧ s.consumed = [] ∧
      s.input = p.input ∧ s.promptText = p.inPrompt ∧ s.noticeText = p.haltNotice ∧ s.abortAfter = p.abortAfter) ∧
    (∀ f, load image = .error f → launch p image = .error f)

/-- The image round trip: an origin and words that fit are loaded big-endian from the origin on, and every other cell is zero
(R59). -/
def Obligations.LoadedImageReadsBack : Prop :=
  ∀ (origin : Word) (ws : List Word), origin.toNat + ws.length ≤ 65536 →
    ∃ m, load (some ((origin :: ws).flatMap bytesOfWord)) = .ok m ∧
      (∀ k, (h : k < ws.length) → m.get (origin.toNat + k) = ws[k]) ∧
      (∀ a : Word, a.toNat < origin.toNat ∨ origin.toNat + ws.length ≤ a.toNat → m.get a.toNat = 0x0000#16)

/-- The loader fails on a stream that cannot be read, an empty one, an odd number of bytes, or more words than cells from the
origin on, each by its own name, and loads exactly the others: an origin and words that fit from it on (20_memory.md section 4;
NO_ORIGIN and OVERFLOW are the spec's own decisions D22, D21; `none` for a stream that cannot be read is the model's form, log
14). -/
def Obligations.LoaderFailsExactlyOnBadStreams : Prop :=
  load none = .error .unreadable ∧ load (some []) = .error .noOrigin ∧
  (∀ bytes : List Byte, bytes.length % 2 = 1 → load (some bytes) = .error .truncatedWord) ∧
  (∀ (origin : Word) (ws : List Word), 65536 < origin.toNat + ws.length →
    load (some ((origin :: ws).flatMap bytesOfWord)) = .error .overflow) ∧
  (∀ image : Option (List Byte), (∃ m, load image = .ok m) ↔
    ∃ (origin : Word) (ws : List Word), image = some ((origin :: ws).flatMap bytesOfWord) ∧ origin.toNat + ws.length ≤ 65536)

/-- An image that leaves 0x3000 unloaded starts with a branch that is never taken, whatever the reset flag: the first step only
fetches (derived by the spec, 20_memory.md section 4). That no abort comes first is a premise on the model's schedule (log 7). -/
def Obligations.UnloadedEntryIsANoOp : Prop :=
  ∀ (p : Params) (image : Option (List Byte)) (s : State), launch p image = .ok s → s.memRead 0x3000#16 = 0x0000#16 →
    p.abortAfter ≠ some 0 →
    ∃ t, step s = .next t ∧ t.pc = 0x3001#16 ∧ t.ir = 0x0000#16 ∧ s.SameRegs t ∧ t.cond = s.cond ∧ s.SameMem t ∧
      s.SameEngine t ∧ s.SameStreams t ∧ s.SameRecord t

/-! ### The invariant -/

/-- Every step keeps the invariant `State.Inv`: canonical memory; a stopped machine's dispatcher idle; the fault record empty
outside FAULTED and, in FAULTED, naming the fetched word, its address and a cause that fits the word; a running service belonging
to the TRAP word in `ir`; text indices within the texts; PUTSP's latched cell the one in memory. The canonical form is the model's
(log 1), the record, FAULTED and ABORTED and the service states the spec's own decisions D17, D18, D19, D23. -/
def Obligations.EveryStepKeepsTheInvariant : Prop :=
  ∀ s t : State, s.Inv → step s = .next t → t.Inv

/-- The invariant holds after every launch that succeeds, whatever the open parameters, and at `State.reset`, whose parameters are
the model's choice (log 2, 3, 5, 6, 7). -/
def Obligations.InvariantHoldsAfterReset : Prop :=
  (∀ (p : Params) (image : Option (List Byte)) (s : State), launch p image = .ok s → s.Inv) ∧ State.reset.Inv
end

