-- ==== Sys2Proof/Laws/Decode.lean ====
section
/-! SUPPORT. How a field is read out of a word written as concatenated fields, and the trap codes. -/

namespace Sys2Proof

/-- A field above the last part lies in the parts before it. -/
theorem extract_append_high (k n m j : Nat) (a : BitVec m) (b : BitVec j) (h : j ≤ k) :
    BitVec.extractLsb' k n (a ++ b) = BitVec.extractLsb' (k - j) n a := by
  ext i hi
  simp only [BitVec.getElem_extractLsb', BitVec.getLsbD_append]
  split
  · omega
  · congr 1; omega

/-- A field inside the last part. -/
theorem extract_append_low (k n m j : Nat) (a : BitVec m) (b : BitVec j) (h : k + n ≤ j) :
    BitVec.extractLsb' k n (a ++ b) = BitVec.extractLsb' k n b := by
  ext i hi
  simp only [BitVec.getElem_extractLsb', BitVec.getLsbD_append]
  split
  · rfl
  · omega

/-- A field that is the whole. -/
theorem extract_whole (n : Nat) (a : BitVec n) : BitVec.extractLsb' 0 n a = a := by simp

theorem toFin_regBits (r : Reg) : (regBits r).toFin = r := rfl

/-- A word is its two bytes, high byte first. -/
theorem wordOfBytes_bytesOfWord (w : Word) : wordOfBytes (w.extractLsb' 8 8) (w.extractLsb' 0 8) = w := by
  unfold wordOfBytes
  apply BitVec.eq_of_getLsbD_eq
  intro i hi
  simp only [BitVec.getLsbD_append, BitVec.getLsbD_extractLsb']
  by_cases h : i < 8
  · simp [h]
  · have h1 : i - 8 < 8 := by omega
    have h2 : 8 + (i - 8) = i := by omega
    simp [h, h1, h2]

/-- The codes with no service are those outside 0x20 to 0x25. -/
theorem serviceOf_eq_none_iff (code : BitVec 8) : serviceOf code = none ↔ isServiceCode code = false := by
  revert code
  decide

end Sys2Proof
end

