-- ==== Sys2Proof/Laws/State.lean ====
section
/-! SUPPORT. What each named update of State does to each field: one lemma per field and update, true by rfl. Registers and memory
are read through `State.reg` and `State.memRead`; the last lemmas say what an update leaves of those. -/

namespace Sys2Proof.Machine.State

variable (s : State)

/-! ### setReg -/

@[simp] theorem setReg_regs (r : Reg) (v : Word) : (s.setReg r v).regs = s.regs.set r.val v r.isLt := rfl
@[simp] theorem setReg_pc (r : Reg) (v : Word) : (s.setReg r v).pc = s.pc := rfl
@[simp] theorem setReg_cond (r : Reg) (v : Word) : (s.setReg r v).cond = s.cond := rfl
@[simp] theorem setReg_ir (r : Reg) (v : Word) : (s.setReg r v).ir = s.ir := rfl
@[simp] theorem setReg_estate (r : Reg) (v : Word) : (s.setReg r v).estate = s.estate := rfl
@[simp] theorem setReg_faultCause (r : Reg) (v : Word) : (s.setReg r v).faultCause = s.faultCause := rfl
@[simp] theorem setReg_faultPc (r : Reg) (v : Word) : (s.setReg r v).faultPc = s.faultPc := rfl
@[simp] theorem setReg_faultIr (r : Reg) (v : Word) : (s.setReg r v).faultIr = s.faultIr := rfl
@[simp] theorem setReg_dstate (r : Reg) (v : Word) : (s.setReg r v).dstate = s.dstate := rfl
@[simp] theorem setReg_mem (r : Reg) (v : Word) : (s.setReg r v).mem = s.mem := rfl
@[simp] theorem setReg_consumed (r : Reg) (v : Word) : (s.setReg r v).consumed = s.consumed := rfl
@[simp] theorem setReg_output (r : Reg) (v : Word) : (s.setReg r v).output = s.output := rfl
@[simp] theorem setReg_input (r : Reg) (v : Word) : (s.setReg r v).input = s.input := rfl
@[simp] theorem setReg_promptText (r : Reg) (v : Word) : (s.setReg r v).promptText = s.promptText := rfl
@[simp] theorem setReg_noticeText (r : Reg) (v : Word) : (s.setReg r v).noticeText = s.noticeText := rfl
@[simp] theorem setReg_abortAfter (r : Reg) (v : Word) : (s.setReg r v).abortAfter = s.abortAfter := rfl
@[simp] theorem memRead_setReg (r : Reg) (v : Word) (x : Word) : (s.setReg r v).memRead x = s.memRead x := rfl

/-! ### setPc -/

@[simp] theorem setPc_regs (w : Word) : (s.setPc w).regs = s.regs := rfl
@[simp] theorem setPc_pc (w : Word) : (s.setPc w).pc = w := rfl
@[simp] theorem setPc_cond (w : Word) : (s.setPc w).cond = s.cond := rfl
@[simp] theorem setPc_ir (w : Word) : (s.setPc w).ir = s.ir := rfl
@[simp] theorem setPc_estate (w : Word) : (s.setPc w).estate = s.estate := rfl
@[simp] theorem setPc_faultCause (w : Word) : (s.setPc w).faultCause = s.faultCause := rfl
@[simp] theorem setPc_faultPc (w : Word) : (s.setPc w).faultPc = s.faultPc := rfl
@[simp] theorem setPc_faultIr (w : Word) : (s.setPc w).faultIr = s.faultIr := rfl
@[simp] theorem setPc_dstate (w : Word) : (s.setPc w).dstate = s.dstate := rfl
@[simp] theorem setPc_mem (w : Word) : (s.setPc w).mem = s.mem := rfl
@[simp] theorem setPc_consumed (w : Word) : (s.setPc w).consumed = s.consumed := rfl
@[simp] theorem setPc_output (w : Word) : (s.setPc w).output = s.output := rfl
@[simp] theorem setPc_input (w : Word) : (s.setPc w).input = s.input := rfl
@[simp] theorem setPc_promptText (w : Word) : (s.setPc w).promptText = s.promptText := rfl
@[simp] theorem setPc_noticeText (w : Word) : (s.setPc w).noticeText = s.noticeText := rfl
@[simp] theorem setPc_abortAfter (w : Word) : (s.setPc w).abortAfter = s.abortAfter := rfl
@[simp] theorem reg_setPc (w : Word) (q : Reg) : (s.setPc w).reg q = s.reg q := rfl
@[simp] theorem memRead_setPc (w : Word) (x : Word) : (s.setPc w).memRead x = s.memRead x := rfl

/-! ### setCond -/

@[simp] theorem setCond_regs (c : Cond) : (s.setCond c).regs = s.regs := rfl
@[simp] theorem setCond_pc (c : Cond) : (s.setCond c).pc = s.pc := rfl
@[simp] theorem setCond_cond (c : Cond) : (s.setCond c).cond = c := rfl
@[simp] theorem setCond_ir (c : Cond) : (s.setCond c).ir = s.ir := rfl
@[simp] theorem setCond_estate (c : Cond) : (s.setCond c).estate = s.estate := rfl
@[simp] theorem setCond_faultCause (c : Cond) : (s.setCond c).faultCause = s.faultCause := rfl
@[simp] theorem setCond_faultPc (c : Cond) : (s.setCond c).faultPc = s.faultPc := rfl
@[simp] theorem setCond_faultIr (c : Cond) : (s.setCond c).faultIr = s.faultIr := rfl
@[simp] theorem setCond_dstate (c : Cond) : (s.setCond c).dstate = s.dstate := rfl
@[simp] theorem setCond_mem (c : Cond) : (s.setCond c).mem = s.mem := rfl
@[simp] theorem setCond_consumed (c : Cond) : (s.setCond c).consumed = s.consumed := rfl
@[simp] theorem setCond_output (c : Cond) : (s.setCond c).output = s.output := rfl
@[simp] theorem setCond_input (c : Cond) : (s.setCond c).input = s.input := rfl
@[simp] theorem setCond_promptText (c : Cond) : (s.setCond c).promptText = s.promptText := rfl
@[simp] theorem setCond_noticeText (c : Cond) : (s.setCond c).noticeText = s.noticeText := rfl
@[simp] theorem setCond_abortAfter (c : Cond) : (s.setCond c).abortAfter = s.abortAfter := rfl
@[simp] theorem reg_setCond (c : Cond) (q : Reg) : (s.setCond c).reg q = s.reg q := rfl
@[simp] theorem memRead_setCond (c : Cond) (x : Word) : (s.setCond c).memRead x = s.memRead x := rfl

/-! ### setIr -/

@[simp] theorem setIr_regs (w : Word) : (s.setIr w).regs = s.regs := rfl
@[simp] theorem setIr_pc (w : Word) : (s.setIr w).pc = s.pc := rfl
@[simp] theorem setIr_cond (w : Word) : (s.setIr w).cond = s.cond := rfl
@[simp] theorem setIr_ir (w : Word) : (s.setIr w).ir = w := rfl
@[simp] theorem setIr_estate (w : Word) : (s.setIr w).estate = s.estate := rfl
@[simp] theorem setIr_faultCause (w : Word) : (s.setIr w).faultCause = s.faultCause := rfl
@[simp] theorem setIr_faultPc (w : Word) : (s.setIr w).faultPc = s.faultPc := rfl
@[simp] theorem setIr_faultIr (w : Word) : (s.setIr w).faultIr = s.faultIr := rfl
@[simp] theorem setIr_dstate (w : Word) : (s.setIr w).dstate = s.dstate := rfl
@[simp] theorem setIr_mem (w : Word) : (s.setIr w).mem = s.mem := rfl
@[simp] theorem setIr_consumed (w : Word) : (s.setIr w).consumed = s.consumed := rfl
@[simp] theorem setIr_output (w : Word) : (s.setIr w).output = s.output := rfl
@[simp] theorem setIr_input (w : Word) : (s.setIr w).input = s.input := rfl
@[simp] theorem setIr_promptText (w : Word) : (s.setIr w).promptText = s.promptText := rfl
@[simp] theorem setIr_noticeText (w : Word) : (s.setIr w).noticeText = s.noticeText := rfl
@[simp] theorem setIr_abortAfter (w : Word) : (s.setIr w).abortAfter = s.abortAfter := rfl
@[simp] theorem reg_setIr (w : Word) (q : Reg) : (s.setIr w).reg q = s.reg q := rfl
@[simp] theorem memRead_setIr (w : Word) (x : Word) : (s.setIr w).memRead x = s.memRead x := rfl

/-! ### setEstate -/

@[simp] theorem setEstate_regs (e : EState) : (s.setEstate e).regs = s.regs := rfl
@[simp] theorem setEstate_pc (e : EState) : (s.setEstate e).pc = s.pc := rfl
@[simp] theorem setEstate_cond (e : EState) : (s.setEstate e).cond = s.cond := rfl
@[simp] theorem setEstate_ir (e : EState) : (s.setEstate e).ir = s.ir := rfl
@[simp] theorem setEstate_estate (e : EState) : (s.setEstate e).estate = e := rfl
@[simp] theorem setEstate_faultCause (e : EState) : (s.setEstate e).faultCause = s.faultCause := rfl
@[simp] theorem setEstate_faultPc (e : EState) : (s.setEstate e).faultPc = s.faultPc := rfl
@[simp] theorem setEstate_faultIr (e : EState) : (s.setEstate e).faultIr = s.faultIr := rfl
@[simp] theorem setEstate_dstate (e : EState) : (s.setEstate e).dstate = s.dstate := rfl
@[simp] theorem setEstate_mem (e : EState) : (s.setEstate e).mem = s.mem := rfl
@[simp] theorem setEstate_consumed (e : EState) : (s.setEstate e).consumed = s.consumed := rfl
@[simp] theorem setEstate_output (e : EState) : (s.setEstate e).output = s.output := rfl
@[simp] theorem setEstate_input (e : EState) : (s.setEstate e).input = s.input := rfl
@[simp] theorem setEstate_promptText (e : EState) : (s.setEstate e).promptText = s.promptText := rfl
@[simp] theorem setEstate_noticeText (e : EState) : (s.setEstate e).noticeText = s.noticeText := rfl
@[simp] theorem setEstate_abortAfter (e : EState) : (s.setEstate e).abortAfter = s.abortAfter := rfl
@[simp] theorem reg_setEstate (e : EState) (q : Reg) : (s.setEstate e).reg q = s.reg q := rfl
@[simp] theorem memRead_setEstate (e : EState) (x : Word) : (s.setEstate e).memRead x = s.memRead x := rfl

/-! ### setDstate -/

@[simp] theorem setDstate_regs (d : DState) : (s.setDstate d).regs = s.regs := rfl
@[simp] theorem setDstate_pc (d : DState) : (s.setDstate d).pc = s.pc := rfl
@[simp] theorem setDstate_cond (d : DState) : (s.setDstate d).cond = s.cond := rfl
@[simp] theorem setDstate_ir (d : DState) : (s.setDstate d).ir = s.ir := rfl
@[simp] theorem setDstate_estate (d : DState) : (s.setDstate d).estate = s.estate := rfl
@[simp] theorem setDstate_faultCause (d : DState) : (s.setDstate d).faultCause = s.faultCause := rfl
@[simp] theorem setDstate_faultPc (d : DState) : (s.setDstate d).faultPc = s.faultPc := rfl
@[simp] theorem setDstate_faultIr (d : DState) : (s.setDstate d).faultIr = s.faultIr := rfl
@[simp] theorem setDstate_dstate (d : DState) : (s.setDstate d).dstate = d := rfl
@[simp] theorem setDstate_mem (d : DState) : (s.setDstate d).mem = s.mem := rfl
@[simp] theorem setDstate_consumed (d : DState) : (s.setDstate d).consumed = s.consumed := rfl
@[simp] theorem setDstate_output (d : DState) : (s.setDstate d).output = s.output := rfl
@[simp] theorem setDstate_input (d : DState) : (s.setDstate d).input = s.input := rfl
@[simp] theorem setDstate_promptText (d : DState) : (s.setDstate d).promptText = s.promptText := rfl
@[simp] theorem setDstate_noticeText (d : DState) : (s.setDstate d).noticeText = s.noticeText := rfl
@[simp] theorem setDstate_abortAfter (d : DState) : (s.setDstate d).abortAfter = s.abortAfter := rfl
@[simp] theorem reg_setDstate (d : DState) (q : Reg) : (s.setDstate d).reg q = s.reg q := rfl
@[simp] theorem memRead_setDstate (d : DState) (x : Word) : (s.setDstate d).memRead x = s.memRead x := rfl

/-! ### memWrite -/

@[simp] theorem memWrite_regs (a v : Word) : (s.memWrite a v).regs = s.regs := rfl
@[simp] theorem memWrite_pc (a v : Word) : (s.memWrite a v).pc = s.pc := rfl
@[simp] theorem memWrite_cond (a v : Word) : (s.memWrite a v).cond = s.cond := rfl
@[simp] theorem memWrite_ir (a v : Word) : (s.memWrite a v).ir = s.ir := rfl
@[simp] theorem memWrite_estate (a v : Word) : (s.memWrite a v).estate = s.estate := rfl
@[simp] theorem memWrite_faultCause (a v : Word) : (s.memWrite a v).faultCause = s.faultCause := rfl
@[simp] theorem memWrite_faultPc (a v : Word) : (s.memWrite a v).faultPc = s.faultPc := rfl
@[simp] theorem memWrite_faultIr (a v : Word) : (s.memWrite a v).faultIr = s.faultIr := rfl
@[simp] theorem memWrite_dstate (a v : Word) : (s.memWrite a v).dstate = s.dstate := rfl
@[simp] theorem memWrite_mem (a v : Word) : (s.memWrite a v).mem = s.mem.set a.toNat v := rfl
@[simp] theorem memWrite_consumed (a v : Word) : (s.memWrite a v).consumed = s.consumed := rfl
@[simp] theorem memWrite_output (a v : Word) : (s.memWrite a v).output = s.output := rfl
@[simp] theorem memWrite_input (a v : Word) : (s.memWrite a v).input = s.input := rfl
@[simp] theorem memWrite_promptText (a v : Word) : (s.memWrite a v).promptText = s.promptText := rfl
@[simp] theorem memWrite_noticeText (a v : Word) : (s.memWrite a v).noticeText = s.noticeText := rfl
@[simp] theorem memWrite_abortAfter (a v : Word) : (s.memWrite a v).abortAfter = s.abortAfter := rfl
@[simp] theorem reg_memWrite (a v : Word) (q : Reg) : (s.memWrite a v).reg q = s.reg q := rfl

/-! ### emit -/

@[simp] theorem emit_regs (b : Byte) : (s.emit b).regs = s.regs := rfl
@[simp] theorem emit_pc (b : Byte) : (s.emit b).pc = s.pc := rfl
@[simp] theorem emit_cond (b : Byte) : (s.emit b).cond = s.cond := rfl
@[simp] theorem emit_ir (b : Byte) : (s.emit b).ir = s.ir := rfl
@[simp] theorem emit_estate (b : Byte) : (s.emit b).estate = s.estate := rfl
@[simp] theorem emit_faultCause (b : Byte) : (s.emit b).faultCause = s.faultCause := rfl
@[simp] theorem emit_faultPc (b : Byte) : (s.emit b).faultPc = s.faultPc := rfl
@[simp] theorem emit_faultIr (b : Byte) : (s.emit b).faultIr = s.faultIr := rfl
@[simp] theorem emit_dstate (b : Byte) : (s.emit b).dstate = s.dstate := rfl
@[simp] theorem emit_mem (b : Byte) : (s.emit b).mem = s.mem := rfl
@[simp] theorem emit_consumed (b : Byte) : (s.emit b).consumed = s.consumed := rfl
@[simp] theorem emit_output (b : Byte) : (s.emit b).output = s.output ++ [b] := rfl
@[simp] theorem emit_input (b : Byte) : (s.emit b).input = s.input := rfl
@[simp] theorem emit_promptText (b : Byte) : (s.emit b).promptText = s.promptText := rfl
@[simp] theorem emit_noticeText (b : Byte) : (s.emit b).noticeText = s.noticeText := rfl
@[simp] theorem emit_abortAfter (b : Byte) : (s.emit b).abortAfter = s.abortAfter := rfl
@[simp] theorem reg_emit (b : Byte) (q : Reg) : (s.emit b).reg q = s.reg q := rfl
@[simp] theorem memRead_emit (b : Byte) (x : Word) : (s.emit b).memRead x = s.memRead x := rfl

/-! ### consume -/

@[simp] theorem consume_regs (b : Byte) (rest : List Delivery) : (s.consume b rest).regs = s.regs := rfl
@[simp] theorem consume_pc (b : Byte) (rest : List Delivery) : (s.consume b rest).pc = s.pc := rfl
@[simp] theorem consume_cond (b : Byte) (rest : List Delivery) : (s.consume b rest).cond = s.cond := rfl
@[simp] theorem consume_ir (b : Byte) (rest : List Delivery) : (s.consume b rest).ir = s.ir := rfl
@[simp] theorem consume_estate (b : Byte) (rest : List Delivery) : (s.consume b rest).estate = s.estate := rfl
@[simp] theorem consume_faultCause (b : Byte) (rest : List Delivery) : (s.consume b rest).faultCause = s.faultCause := rfl
@[simp] theorem consume_faultPc (b : Byte) (rest : List Delivery) : (s.consume b rest).faultPc = s.faultPc := rfl
@[simp] theorem consume_faultIr (b : Byte) (rest : List Delivery) : (s.consume b rest).faultIr = s.faultIr := rfl
@[simp] theorem consume_dstate (b : Byte) (rest : List Delivery) : (s.consume b rest).dstate = s.dstate := rfl
@[simp] theorem consume_mem (b : Byte) (rest : List Delivery) : (s.consume b rest).mem = s.mem := rfl
@[simp] theorem consume_consumed (b : Byte) (rest : List Delivery) : (s.consume b rest).consumed = s.consumed ++ [b] := rfl
@[simp] theorem consume_output (b : Byte) (rest : List Delivery) : (s.consume b rest).output = s.output := rfl
@[simp] theorem consume_input (b : Byte) (rest : List Delivery) : (s.consume b rest).input = rest := rfl
@[simp] theorem consume_promptText (b : Byte) (rest : List Delivery) : (s.consume b rest).promptText = s.promptText := rfl
@[simp] theorem consume_noticeText (b : Byte) (rest : List Delivery) : (s.consume b rest).noticeText = s.noticeText := rfl
@[simp] theorem consume_abortAfter (b : Byte) (rest : List Delivery) : (s.consume b rest).abortAfter = s.abortAfter := rfl
@[simp] theorem reg_consume (b : Byte) (rest : List Delivery) (q : Reg) : (s.consume b rest).reg q = s.reg q := rfl
@[simp] theorem memRead_consume (b : Byte) (rest : List Delivery) (x : Word) : (s.consume b rest).memRead x = s.memRead x := rfl

/-! ### recordFault -/

@[simp] theorem recordFault_regs (c : BitVec 4) (a w : Word) : (s.recordFault c a w).regs = s.regs := rfl
@[simp] theorem recordFault_pc (c : BitVec 4) (a w : Word) : (s.recordFault c a w).pc = s.pc := rfl
@[simp] theorem recordFault_cond (c : BitVec 4) (a w : Word) : (s.recordFault c a w).cond = s.cond := rfl
@[simp] theorem recordFault_ir (c : BitVec 4) (a w : Word) : (s.recordFault c a w).ir = s.ir := rfl
@[simp] theorem recordFault_estate (c : BitVec 4) (a w : Word) : (s.recordFault c a w).estate = s.estate := rfl
@[simp] theorem recordFault_faultCause (c : BitVec 4) (a w : Word) : (s.recordFault c a w).faultCause = c := rfl
@[simp] theorem recordFault_faultPc (c : BitVec 4) (a w : Word) : (s.recordFault c a w).faultPc = a := rfl
@[simp] theorem recordFault_faultIr (c : BitVec 4) (a w : Word) : (s.recordFault c a w).faultIr = w := rfl
@[simp] theorem recordFault_dstate (c : BitVec 4) (a w : Word) : (s.recordFault c a w).dstate = s.dstate := rfl
@[simp] theorem recordFault_mem (c : BitVec 4) (a w : Word) : (s.recordFault c a w).mem = s.mem := rfl
@[simp] theorem recordFault_consumed (c : BitVec 4) (a w : Word) : (s.recordFault c a w).consumed = s.consumed := rfl
@[simp] theorem recordFault_output (c : BitVec 4) (a w : Word) : (s.recordFault c a w).output = s.output := rfl
@[simp] theorem recordFault_input (c : BitVec 4) (a w : Word) : (s.recordFault c a w).input = s.input := rfl
@[simp] theorem recordFault_promptText (c : BitVec 4) (a w : Word) : (s.recordFault c a w).promptText = s.promptText := rfl
@[simp] theorem recordFault_noticeText (c : BitVec 4) (a w : Word) : (s.recordFault c a w).noticeText = s.noticeText := rfl
@[simp] theorem recordFault_abortAfter (c : BitVec 4) (a w : Word) : (s.recordFault c a w).abortAfter = s.abortAfter := rfl
@[simp] theorem reg_recordFault (c : BitVec 4) (a w : Word) (q : Reg) : (s.recordFault c a w).reg q = s.reg q := rfl
@[simp] theorem memRead_recordFault (c : BitVec 4) (a w : Word) (x : Word) : (s.recordFault c a w).memRead x = s.memRead x := rfl

/-! ### passBoundary -/

@[simp] theorem passBoundary_regs : s.passBoundary.regs = s.regs := rfl
@[simp] theorem passBoundary_pc : s.passBoundary.pc = s.pc := rfl
@[simp] theorem passBoundary_cond : s.passBoundary.cond = s.cond := rfl
@[simp] theorem passBoundary_ir : s.passBoundary.ir = s.ir := rfl
@[simp] theorem passBoundary_estate : s.passBoundary.estate = s.estate := rfl
@[simp] theorem passBoundary_faultCause : s.passBoundary.faultCause = s.faultCause := rfl
@[simp] theorem passBoundary_faultPc : s.passBoundary.faultPc = s.faultPc := rfl
@[simp] theorem passBoundary_faultIr : s.passBoundary.faultIr = s.faultIr := rfl
@[simp] theorem passBoundary_dstate : s.passBoundary.dstate = s.dstate := rfl
@[simp] theorem passBoundary_mem : s.passBoundary.mem = s.mem := rfl
@[simp] theorem passBoundary_consumed : s.passBoundary.consumed = s.consumed := rfl
@[simp] theorem passBoundary_output : s.passBoundary.output = s.output := rfl
@[simp] theorem passBoundary_input : s.passBoundary.input = s.input := rfl
@[simp] theorem passBoundary_promptText : s.passBoundary.promptText = s.promptText := rfl
@[simp] theorem passBoundary_noticeText : s.passBoundary.noticeText = s.noticeText := rfl
@[simp] theorem passBoundary_abortAfter : s.passBoundary.abortAfter = s.abortAfter.map (· - 1) := rfl
@[simp] theorem reg_passBoundary (q : Reg) : s.passBoundary.reg q = s.reg q := rfl
@[simp] theorem memRead_passBoundary (x : Word) : s.passBoundary.memRead x = s.memRead x := rfl

/-! ### setcc -/

@[simp] theorem setcc_regs (v : Word) : (s.setcc v).regs = s.regs := rfl
@[simp] theorem setcc_pc (v : Word) : (s.setcc v).pc = s.pc := rfl
@[simp] theorem setcc_cond (v : Word) : (s.setcc v).cond = condOf v := rfl
@[simp] theorem setcc_ir (v : Word) : (s.setcc v).ir = s.ir := rfl
@[simp] theorem setcc_estate (v : Word) : (s.setcc v).estate = s.estate := rfl
@[simp] theorem setcc_faultCause (v : Word) : (s.setcc v).faultCause = s.faultCause := rfl
@[simp] theorem setcc_faultPc (v : Word) : (s.setcc v).faultPc = s.faultPc := rfl
@[simp] theorem setcc_faultIr (v : Word) : (s.setcc v).faultIr = s.faultIr := rfl
@[simp] theorem setcc_dstate (v : Word) : (s.setcc v).dstate = s.dstate := rfl
@[simp] theorem setcc_mem (v : Word) : (s.setcc v).mem = s.mem := rfl
@[simp] theorem setcc_consumed (v : Word) : (s.setcc v).consumed = s.consumed := rfl
@[simp] theorem setcc_output (v : Word) : (s.setcc v).output = s.output := rfl
@[simp] theorem setcc_input (v : Word) : (s.setcc v).input = s.input := rfl
@[simp] theorem setcc_promptText (v : Word) : (s.setcc v).promptText = s.promptText := rfl
@[simp] theorem setcc_noticeText (v : Word) : (s.setcc v).noticeText = s.noticeText := rfl
@[simp] theorem setcc_abortAfter (v : Word) : (s.setcc v).abortAfter = s.abortAfter := rfl
@[simp] theorem reg_setcc (v : Word) (q : Reg) : (s.setcc v).reg q = s.reg q := rfl
@[simp] theorem memRead_setcc (v : Word) (x : Word) : (s.setcc v).memRead x = s.memRead x := rfl

/-! ### writeDest -/

@[simp] theorem writeDest_regs (r : Reg) (v : Word) : (s.writeDest r v).regs = s.regs.set r.val v r.isLt := rfl
@[simp] theorem writeDest_pc (r : Reg) (v : Word) : (s.writeDest r v).pc = s.pc := rfl
@[simp] theorem writeDest_cond (r : Reg) (v : Word) : (s.writeDest r v).cond = condOf v := rfl
@[simp] theorem writeDest_ir (r : Reg) (v : Word) : (s.writeDest r v).ir = s.ir := rfl
@[simp] theorem writeDest_estate (r : Reg) (v : Word) : (s.writeDest r v).estate = s.estate := rfl
@[simp] theorem writeDest_faultCause (r : Reg) (v : Word) : (s.writeDest r v).faultCause = s.faultCause := rfl
@[simp] theorem writeDest_faultPc (r : Reg) (v : Word) : (s.writeDest r v).faultPc = s.faultPc := rfl
@[simp] theorem writeDest_faultIr (r : Reg) (v : Word) : (s.writeDest r v).faultIr = s.faultIr := rfl
@[simp] theorem writeDest_dstate (r : Reg) (v : Word) : (s.writeDest r v).dstate = s.dstate := rfl
@[simp] theorem writeDest_mem (r : Reg) (v : Word) : (s.writeDest r v).mem = s.mem := rfl
@[simp] theorem writeDest_consumed (r : Reg) (v : Word) : (s.writeDest r v).consumed = s.consumed := rfl
@[simp] theorem writeDest_output (r : Reg) (v : Word) : (s.writeDest r v).output = s.output := rfl
@[simp] theorem writeDest_input (r : Reg) (v : Word) : (s.writeDest r v).input = s.input := rfl
@[simp] theorem writeDest_promptText (r : Reg) (v : Word) : (s.writeDest r v).promptText = s.promptText := rfl
@[simp] theorem writeDest_noticeText (r : Reg) (v : Word) : (s.writeDest r v).noticeText = s.noticeText := rfl
@[simp] theorem writeDest_abortAfter (r : Reg) (v : Word) : (s.writeDest r v).abortAfter = s.abortAfter := rfl
@[simp] theorem memRead_writeDest (r : Reg) (v : Word) (x : Word) : (s.writeDest r v).memRead x = s.memRead x := rfl

/-! ### fetch -/

@[simp] theorem fetch_regs : s.fetch.regs = s.regs := rfl
@[simp] theorem fetch_pc : s.fetch.pc = s.pc + 1#16 := rfl
@[simp] theorem fetch_cond : s.fetch.cond = s.cond := rfl
@[simp] theorem fetch_ir : s.fetch.ir = s.memRead s.pc := rfl
@[simp] theorem fetch_estate : s.fetch.estate = s.estate := rfl
@[simp] theorem fetch_faultCause : s.fetch.faultCause = s.faultCause := rfl
@[simp] theorem fetch_faultPc : s.fetch.faultPc = s.faultPc := rfl
@[simp] theorem fetch_faultIr : s.fetch.faultIr = s.faultIr := rfl
@[simp] theorem fetch_dstate : s.fetch.dstate = s.dstate := rfl
@[simp] theorem fetch_mem : s.fetch.mem = s.mem := rfl
@[simp] theorem fetch_consumed : s.fetch.consumed = s.consumed := rfl
@[simp] theorem fetch_output : s.fetch.output = s.output := rfl
@[simp] theorem fetch_input : s.fetch.input = s.input := rfl
@[simp] theorem fetch_promptText : s.fetch.promptText = s.promptText := rfl
@[simp] theorem fetch_noticeText : s.fetch.noticeText = s.noticeText := rfl
@[simp] theorem fetch_abortAfter : s.fetch.abortAfter = s.abortAfter := rfl
@[simp] theorem reg_fetch (q : Reg) : s.fetch.reg q = s.reg q := rfl
@[simp] theorem memRead_fetch (x : Word) : s.fetch.memRead x = s.memRead x := rfl

/-! ### raiseFault -/

@[simp] theorem raiseFault_regs (c : FaultCause) : (s.raiseFault c).regs = s.regs := rfl
@[simp] theorem raiseFault_pc (c : FaultCause) : (s.raiseFault c).pc = s.pc := rfl
@[simp] theorem raiseFault_cond (c : FaultCause) : (s.raiseFault c).cond = s.cond := rfl
@[simp] theorem raiseFault_ir (c : FaultCause) : (s.raiseFault c).ir = s.ir := rfl
@[simp] theorem raiseFault_estate (c : FaultCause) : (s.raiseFault c).estate = .faulted := rfl
@[simp] theorem raiseFault_faultCause (c : FaultCause) : (s.raiseFault c).faultCause = c.code := rfl
@[simp] theorem raiseFault_faultPc (c : FaultCause) : (s.raiseFault c).faultPc = s.pc - 1#16 := rfl
@[simp] theorem raiseFault_faultIr (c : FaultCause) : (s.raiseFault c).faultIr = s.ir := rfl
@[simp] theorem raiseFault_dstate (c : FaultCause) : (s.raiseFault c).dstate = .idle := rfl
@[simp] theorem raiseFault_mem (c : FaultCause) : (s.raiseFault c).mem = s.mem := rfl
@[simp] theorem raiseFault_consumed (c : FaultCause) : (s.raiseFault c).consumed = s.consumed := rfl
@[simp] theorem raiseFault_output (c : FaultCause) : (s.raiseFault c).output = s.output := rfl
@[simp] theorem raiseFault_input (c : FaultCause) : (s.raiseFault c).input = s.input := rfl
@[simp] theorem raiseFault_promptText (c : FaultCause) : (s.raiseFault c).promptText = s.promptText := rfl
@[simp] theorem raiseFault_noticeText (c : FaultCause) : (s.raiseFault c).noticeText = s.noticeText := rfl
@[simp] theorem raiseFault_abortAfter (c : FaultCause) : (s.raiseFault c).abortAfter = s.abortAfter := rfl
@[simp] theorem reg_raiseFault (c : FaultCause) (q : Reg) : (s.raiseFault c).reg q = s.reg q := rfl
@[simp] theorem memRead_raiseFault (c : FaultCause) (x : Word) : (s.raiseFault c).memRead x = s.memRead x := rfl

/-! ### takeAbort -/

@[simp] theorem takeAbort_regs : s.takeAbort.regs = s.regs := rfl
@[simp] theorem takeAbort_pc : s.takeAbort.pc = s.pc := rfl
@[simp] theorem takeAbort_cond : s.takeAbort.cond = s.cond := rfl
@[simp] theorem takeAbort_ir : s.takeAbort.ir = s.ir := rfl
@[simp] theorem takeAbort_estate : s.takeAbort.estate = .aborted := rfl
@[simp] theorem takeAbort_faultCause : s.takeAbort.faultCause = s.faultCause := rfl
@[simp] theorem takeAbort_faultPc : s.takeAbort.faultPc = s.faultPc := rfl
@[simp] theorem takeAbort_faultIr : s.takeAbort.faultIr = s.faultIr := rfl
@[simp] theorem takeAbort_dstate : s.takeAbort.dstate = s.dstate := rfl
@[simp] theorem takeAbort_mem : s.takeAbort.mem = s.mem := rfl
@[simp] theorem takeAbort_consumed : s.takeAbort.consumed = s.consumed := rfl
@[simp] theorem takeAbort_output : s.takeAbort.output = s.output := rfl
@[simp] theorem takeAbort_input : s.takeAbort.input = s.input := rfl
@[simp] theorem takeAbort_promptText : s.takeAbort.promptText = s.promptText := rfl
@[simp] theorem takeAbort_noticeText : s.takeAbort.noticeText = s.noticeText := rfl
@[simp] theorem takeAbort_abortAfter : s.takeAbort.abortAfter = s.abortAfter := rfl
@[simp] theorem reg_takeAbort (q : Reg) : s.takeAbort.reg q = s.reg q := rfl
@[simp] theorem memRead_takeAbort (x : Word) : s.takeAbort.memRead x = s.memRead x := rfl

end Sys2Proof.Machine.State
end

