-- ==== Sys2Proof/Laws/Memory.lean ====
section
/-! SUPPORT. The laws of memory (20_memory.md R52, R59) and of the register file (10_state.md R20): read after write, nothing else
changes, and every memory operation keeps the canonical form. -/

namespace Sys2Proof.Machine

/-! ### Registers -/

@[simp] theorem State.reg_setReg_self (s : State) (r : Reg) (v : Word) : (s.setReg r v).reg r = v := by
  simp [State.setReg, State.reg, Vector.get_eq_getElem]

theorem State.reg_setReg_ne (s : State) {r q : Reg} (v : Word) (h : q ≠ r) : (s.setReg r v).reg q = s.reg q := by
  have hv : r.val ≠ q.val := fun e => h (Fin.ext e.symm)
  simp [State.setReg, State.reg, Vector.get_eq_getElem, hv]

theorem State.reg_setReg (s : State) (r q : Reg) (v : Word) :
    (s.setReg r v).reg q = if q = r then v else s.reg q := by
  by_cases h : q = r
  · subst h; simp
  · simp [h, State.reg_setReg_ne s v h]

@[simp] theorem State.reg_writeDest_self (s : State) (r : Reg) (v : Word) : (s.writeDest r v).reg r = v :=
  State.reg_setReg_self s r v

theorem State.reg_writeDest_ne (s : State) {r q : Reg} (v : Word) (h : q ≠ r) : (s.writeDest r v).reg q = s.reg q :=
  State.reg_setReg_ne s v h

/-! ### Reading a list of cells -/

theorem Memory.lookup_filter_self (a : Nat) (cs : List Cell) :
    Memory.lookup a (cs.filter (fun c => c.1 ≠ a)) = 0#16 := by
  induction cs with
  | nil => rfl
  | cons c cs ih =>
    by_cases h : c.1 = a
    · simpa [h] using ih
    · simpa [h, Memory.lookup] using ih

theorem Memory.lookup_filter_ne {a b : Nat} (h : b ≠ a) (cs : List Cell) :
    Memory.lookup b (cs.filter (fun c => c.1 ≠ a)) = Memory.lookup b cs := by
  induction cs with
  | nil => rfl
  | cons c cs ih =>
    by_cases hc : c.1 = a
    · have hb : a ≠ b := fun e => h e.symm
      simpa [hc, Memory.lookup, hb] using ih
    · by_cases hb : c.1 = b
      · simp [hb, Memory.lookup, h]
      · simpa [hc, hb, Memory.lookup] using ih

theorem Memory.lookup_insertCell_self {a : Nat} (v : Word) {cs : List Cell} (h : ∀ c ∈ cs, c.1 ≠ a) :
    Memory.lookup a (Memory.insertCell a v cs) = v := by
  induction cs with
  | nil => simp [Memory.insertCell, Memory.lookup]
  | cons c cs ih =>
    have hc : c.1 ≠ a := h c (by simp)
    by_cases hlt : a < c.1
    · simp [Memory.insertCell, hlt, Memory.lookup]
    · simpa [Memory.insertCell, hlt, Memory.lookup, hc] using ih (fun x hx => h x (by simp [hx]))

theorem Memory.lookup_insertCell_ne {a b : Nat} (h : b ≠ a) (v : Word) (cs : List Cell) :
    Memory.lookup b (Memory.insertCell a v cs) = Memory.lookup b cs := by
  have hb : a ≠ b := fun e => h e.symm
  induction cs with
  | nil => simp [Memory.insertCell, Memory.lookup, hb]
  | cons c cs ih =>
    by_cases hlt : a < c.1
    · simp [Memory.insertCell, hlt, Memory.lookup, hb]
    · simp [Memory.insertCell, hlt, Memory.lookup, ih]

/-! ### Read after write -/

@[simp] theorem Memory.get_empty (a : Nat) : Memory.empty.get a = 0#16 := rfl

@[simp] theorem Memory.get_set_self (m : Memory) (a : Nat) (v : Word) : (m.set a v).get a = v := by
  unfold Memory.set Memory.get
  split
  · next hv => rw [hv]; exact Memory.lookup_filter_self a m.cells
  · exact Memory.lookup_insertCell_self v (by simp)

theorem Memory.get_set_ne (m : Memory) {a b : Nat} (v : Word) (h : b ≠ a) : (m.set a v).get b = m.get b := by
  unfold Memory.set Memory.get
  split
  · exact Memory.lookup_filter_ne h m.cells
  · rw [Memory.lookup_insertCell_ne h, Memory.lookup_filter_ne h]

@[simp] theorem State.memRead_memWrite_self (s : State) (a v : Word) : (s.memWrite a v).memRead a = v :=
  Memory.get_set_self s.mem a.toNat v

theorem State.memRead_memWrite_ne (s : State) {a b : Word} (v : Word) (h : b ≠ a) :
    (s.memWrite a v).memRead b = s.memRead b :=
  Memory.get_set_ne s.mem v (fun e => h (BitVec.eq_of_toNat_eq e))

/-! ### The canonical form -/

theorem Memory.rising_cons (c : Cell) (cs : List Cell) :
    Memory.rising (c :: cs) = true ↔ (∀ d ∈ cs, c.1 < d.1) ∧ Memory.rising cs = true := by
  induction cs generalizing c with
  | nil => simp [Memory.rising]
  | cons d cs ih =>
    simp only [Memory.rising, Bool.and_eq_true, decide_eq_true_eq, List.mem_cons, forall_eq_or_imp]
    constructor
    · rintro ⟨hcd, hr⟩
      exact ⟨⟨hcd, fun e he => lt_trans hcd (((ih d).1 hr).1 e he)⟩, hr⟩
    · rintro ⟨⟨hcd, -⟩, hr⟩
      exact ⟨hcd, hr⟩

theorem Memory.rising_filter (p : Cell → Bool) {cs : List Cell} (h : Memory.rising cs = true) :
    Memory.rising (cs.filter p) = true := by
  induction cs with
  | nil => rfl
  | cons c cs ih =>
    obtain ⟨hc, hr⟩ := (Memory.rising_cons c cs).1 h
    by_cases hp : p c
    · rw [List.filter_cons_of_pos hp, Memory.rising_cons]
      exact ⟨fun d hd => hc d (List.mem_filter.1 hd).1, ih hr⟩
    · rw [List.filter_cons_of_neg hp]; exact ih hr

theorem Memory.mem_insertCell {a : Nat} {v : Word} {cs : List Cell} {d : Cell}
    (h : d ∈ Memory.insertCell a v cs) : d = (a, v) ∨ d ∈ cs := by
  induction cs with
  | nil => simpa [Memory.insertCell] using h
  | cons c cs ih =>
    by_cases hlt : a < c.1
    · simpa [Memory.insertCell, hlt] using h
    · simp only [Memory.insertCell, hlt, if_false, List.mem_cons] at h ⊢
      rcases h with h | h
      · exact .inr (.inl h)
      · exact (ih h).imp id .inr

theorem Memory.rising_insertCell {a : Nat} (v : Word) {cs : List Cell} (hr : Memory.rising cs = true)
    (hne : ∀ c ∈ cs, c.1 ≠ a) : Memory.rising (Memory.insertCell a v cs) = true := by
  induction cs with
  | nil => rfl
  | cons c cs ih =>
    obtain ⟨hc, hr'⟩ := (Memory.rising_cons c cs).1 hr
    by_cases hlt : a < c.1
    · simp only [Memory.insertCell, hlt, if_true]
      rw [Memory.rising_cons]
      refine ⟨fun d hd => ?_, hr⟩
      rcases List.mem_cons.1 hd with rfl | hd
      · exact hlt
      · exact lt_trans hlt (hc d hd)
    · simp only [Memory.insertCell, hlt, if_false]
      rw [Memory.rising_cons]
      refine ⟨fun d hd => ?_, ih hr' (fun d hd => hne d (by simp [hd]))⟩
      have hca : c.1 ≠ a := hne c (by simp)
      rcases Memory.mem_insertCell hd with rfl | hd
      · show c.1 < a
        omega
      · exact hc d hd

theorem Memory.wf_iff (m : Memory) :
    m.wf = true ↔ Memory.rising m.cells = true ∧ ∀ c ∈ m.cells, c.1 < Config.memoryWords ∧ c.2 ≠ 0#16 := by
  simp [Memory.wf, Memory.cellOk]

theorem Memory.empty_wf : Memory.empty.wf = true := rfl

/-- A write inside the address space keeps the canonical form. -/
theorem Memory.set_wf {m : Memory} (hm : m.wf = true) {a : Nat} (ha : a < Config.memoryWords) (v : Word) :
    (m.set a v).wf = true := by
  rw [Memory.wf_iff] at hm ⊢
  obtain ⟨hr, hc⟩ := hm
  have hf : ∀ c ∈ m.cells.filter (fun c => c.1 ≠ a), c.1 < Config.memoryWords ∧ c.2 ≠ 0#16 :=
    fun c h => hc c (List.mem_filter.1 h).1
  unfold Memory.set
  split
  · exact ⟨Memory.rising_filter _ hr, hf⟩
  · next hv =>
    refine ⟨Memory.rising_insertCell v (Memory.rising_filter _ hr) (by simp), fun c h => ?_⟩
    rcases Memory.mem_insertCell h with rfl | h
    · exact ⟨ha, hv⟩
    · exact hf c h

theorem State.memWrite_wf {s : State} (h : s.mem.wf = true) (a v : Word) : (s.memWrite a v).mem.wf = true :=
  Memory.set_wf h a.isLt v

/-- A block written inside the address space keeps the canonical form. -/
theorem Memory.store_wf {m : Memory} (hm : m.wf = true) {a : Nat} {ws : List Word}
    (h : a + ws.length ≤ Config.memoryWords) : (m.store a ws).wf = true := by
  induction ws generalizing m a with
  | nil => exact hm
  | cons w ws ih =>
    simp only [List.length_cons] at h
    exact ih (Memory.set_wf hm (by omega) w) (by omega)

theorem placeImage_wf {origin : Word} {ws : List Word} {m : Memory} (h : placeImage origin ws = .ok m) : m.wf = true := by
  have ho : origin.toNat < Config.memoryWords := origin.isLt
  unfold placeImage at h
  split at h
  · exact absurd h (by simp)
  · cases h
    exact Memory.store_wf Memory.empty_wf (by omega)

/-- What the loader leaves is in canonical form. -/
theorem load_wf {image : Option (List Byte)} {m : Memory} (h : load image = .ok m) : m.wf = true := by
  unfold load at h
  split at h
  · exact absurd h (by simp)
  · exact absurd h (by simp)
  · exact absurd h (by simp)
  · next hi lo rest =>
    split at h
    · exact absurd h (by simp)
    · exact placeImage_wf h

end Sys2Proof.Machine
end

