-- ==== Sys2Proof/Laws/PerInstr.lean ====
section
/-! SUPPORT. The family EncodeOpcode: the opcode field of every instruction's word selects that instruction's entry of the
opcode map (30_encoding.md R83). -/

namespace Sys2Proof

/-- The entry of R83's map an instruction belongs to. -/
def Laws.EncodeOpcode.entry : Instr → Opcode
  | .br _ _ => .br
  | .addReg _ _ _ | .addImm _ _ _ => .add
  | .ld _ _ => .ld
  | .st _ _ => .st
  | .jsr _ | .jsrr _ => .jsr
  | .andReg _ _ _ | .andImm _ _ _ => .and
  | .ldr _ _ _ => .ldr
  | .str _ _ _ => .str
  | .rti => .rti
  | .notOp _ _ => .not
  | .ldi _ _ => .ldi
  | .sti _ _ => .sti
  | .jmp _ => .jmp
  | .reserved => .reserved
  | .lea _ _ => .lea
  | .trap _ | .trapGetc | .trapOut | .trapPuts | .trapIn | .trapPutsp | .trapHalt => .trap

/-- The encoded word selects the instruction's entry. -/
def Laws.EncodeOpcode.Statement (i : Instr) : Prop := opcodeOf (encode i) = Laws.EncodeOpcode.entry i

/-- A word whose top four bits stand first has them as its opcode field. -/
theorem Laws.EncodeOpcode.of_field {w : Word} {o : BitVec 4} (h : opcodeField w = o) :
    opcodeOf w = opcodeTable.get o.toFin := by rw [opcodeOf, h]

theorem Laws.EncodeOpcode.br (nzp : BitVec 3) (off : BitVec 9) : Laws.EncodeOpcode.Statement (.br nzp off) :=
  Laws.EncodeOpcode.of_field (o := 0#4) (by
    simp (disch := omega) only [opcodeField, encode, extract_append_high]; rfl)

theorem Laws.EncodeOpcode.addReg (dr : Reg) (sr1 : Reg) (sr2 : Reg) : Laws.EncodeOpcode.Statement (.addReg dr sr1 sr2) :=
  Laws.EncodeOpcode.of_field (o := 1#4) (by
    simp (disch := omega) only [opcodeField, encode, extract_append_high]; rfl)

theorem Laws.EncodeOpcode.addImm (dr : Reg) (sr1 : Reg) (imm : BitVec 5) : Laws.EncodeOpcode.Statement (.addImm dr sr1 imm) :=
  Laws.EncodeOpcode.of_field (o := 1#4) (by
    simp (disch := omega) only [opcodeField, encode, extract_append_high]; rfl)

theorem Laws.EncodeOpcode.ld (dr : Reg) (off : BitVec 9) : Laws.EncodeOpcode.Statement (.ld dr off) :=
  Laws.EncodeOpcode.of_field (o := 2#4) (by
    simp (disch := omega) only [opcodeField, encode, extract_append_high]; rfl)

theorem Laws.EncodeOpcode.st (sr : Reg) (off : BitVec 9) : Laws.EncodeOpcode.Statement (.st sr off) :=
  Laws.EncodeOpcode.of_field (o := 3#4) (by
    simp (disch := omega) only [opcodeField, encode, extract_append_high]; rfl)

theorem Laws.EncodeOpcode.jsr (off : BitVec 11) : Laws.EncodeOpcode.Statement (.jsr off) :=
  Laws.EncodeOpcode.of_field (o := 4#4) (by
    simp (disch := omega) only [opcodeField, encode, extract_append_high]; rfl)

theorem Laws.EncodeOpcode.jsrr (base : Reg) : Laws.EncodeOpcode.Statement (.jsrr base) :=
  Laws.EncodeOpcode.of_field (o := 4#4) (by
    simp (disch := omega) only [opcodeField, encode, extract_append_high]; rfl)

theorem Laws.EncodeOpcode.andReg (dr : Reg) (sr1 : Reg) (sr2 : Reg) : Laws.EncodeOpcode.Statement (.andReg dr sr1 sr2) :=
  Laws.EncodeOpcode.of_field (o := 5#4) (by
    simp (disch := omega) only [opcodeField, encode, extract_append_high]; rfl)

theorem Laws.EncodeOpcode.andImm (dr : Reg) (sr1 : Reg) (imm : BitVec 5) : Laws.EncodeOpcode.Statement (.andImm dr sr1 imm) :=
  Laws.EncodeOpcode.of_field (o := 5#4) (by
    simp (disch := omega) only [opcodeField, encode, extract_append_high]; rfl)

theorem Laws.EncodeOpcode.ldr (dr : Reg) (base : Reg) (off : BitVec 6) : Laws.EncodeOpcode.Statement (.ldr dr base off) :=
  Laws.EncodeOpcode.of_field (o := 6#4) (by
    simp (disch := omega) only [opcodeField, encode, extract_append_high]; rfl)

theorem Laws.EncodeOpcode.str (sr : Reg) (base : Reg) (off : BitVec 6) : Laws.EncodeOpcode.Statement (.str sr base off) :=
  Laws.EncodeOpcode.of_field (o := 7#4) (by
    simp (disch := omega) only [opcodeField, encode, extract_append_high]; rfl)

theorem Laws.EncodeOpcode.rti : Laws.EncodeOpcode.Statement .rti := rfl

theorem Laws.EncodeOpcode.notOp (dr : Reg) (sr : Reg) : Laws.EncodeOpcode.Statement (.notOp dr sr) :=
  Laws.EncodeOpcode.of_field (o := 9#4) (by
    simp (disch := omega) only [opcodeField, encode, extract_append_high]; rfl)

theorem Laws.EncodeOpcode.ldi (dr : Reg) (off : BitVec 9) : Laws.EncodeOpcode.Statement (.ldi dr off) :=
  Laws.EncodeOpcode.of_field (o := 10#4) (by
    simp (disch := omega) only [opcodeField, encode, extract_append_high]; rfl)

theorem Laws.EncodeOpcode.sti (sr : Reg) (off : BitVec 9) : Laws.EncodeOpcode.Statement (.sti sr off) :=
  Laws.EncodeOpcode.of_field (o := 11#4) (by
    simp (disch := omega) only [opcodeField, encode, extract_append_high]; rfl)

theorem Laws.EncodeOpcode.jmp (base : Reg) : Laws.EncodeOpcode.Statement (.jmp base) :=
  Laws.EncodeOpcode.of_field (o := 12#4) (by
    simp (disch := omega) only [opcodeField, encode, extract_append_high]; rfl)

theorem Laws.EncodeOpcode.reserved : Laws.EncodeOpcode.Statement .reserved := rfl

theorem Laws.EncodeOpcode.lea (dr : Reg) (off : BitVec 9) : Laws.EncodeOpcode.Statement (.lea dr off) :=
  Laws.EncodeOpcode.of_field (o := 14#4) (by
    simp (disch := omega) only [opcodeField, encode, extract_append_high]; rfl)

theorem Laws.EncodeOpcode.trap (code : BitVec 8) : Laws.EncodeOpcode.Statement (.trap code) :=
  Laws.EncodeOpcode.of_field (o := 15#4) (by
    simp (disch := omega) only [opcodeField, encode, encodeTrap, extract_append_high]; rfl)

theorem Laws.EncodeOpcode.trapGetc : Laws.EncodeOpcode.Statement .trapGetc := rfl

theorem Laws.EncodeOpcode.trapOut : Laws.EncodeOpcode.Statement .trapOut := rfl

theorem Laws.EncodeOpcode.trapPuts : Laws.EncodeOpcode.Statement .trapPuts := rfl

theorem Laws.EncodeOpcode.trapIn : Laws.EncodeOpcode.Statement .trapIn := rfl

theorem Laws.EncodeOpcode.trapPutsp : Laws.EncodeOpcode.Statement .trapPutsp := rfl

theorem Laws.EncodeOpcode.trapHalt : Laws.EncodeOpcode.Statement .trapHalt := rfl

end Sys2Proof
end

