-- ==== Sys2Proof/Laws/Step.lean ====
section
/-! SUPPORT. What each shared operation and each step can do, said once: one inversion lemma per dispatch, dispatcher step and
machine step. -/

namespace Sys2Proof.Machine

/-! ### Console -/

/-- Everything `Receive()` can answer. -/
theorem State.receive_cases (s : State) :
    (s.input = [] ∧ s.receive = none) ∨
    (∃ b rest, s.input = .byte b :: rest ∧ s.receive = some (.byte b, s.consume b rest)) ∨
    (∃ rest, s.input = .endOfInput :: rest ∧ s.receive = some (.endOfInput, s)) := by
  unfold State.receive
  split
  · next h => exact .inl ⟨h, rfl⟩
  · next b rest h => exact .inr (.inl ⟨b, rest, h, rfl⟩)
  · next rest h => exact .inr (.inr ⟨rest, h, rfl⟩)

/-! ### Instructions -/

/-- Dispatch starts the service of the code, or raises ILLEGAL_TRAP. -/
theorem dispatch_cases (code : BitVec 8) (s : State) :
    (∃ svc, serviceOf code = some svc ∧ dispatch code s = s.setDstate (Service.initialState svc s)) ∨
    (serviceOf code = none ∧ dispatch code s = s.raiseFault .illegalTrap) := by
  unfold dispatch
  cases h : serviceOf code with
  | none => exact .inr ⟨rfl, rfl⟩
  | some svc => exact .inl ⟨svc, rfl, rfl⟩

/-- Everything an instruction can do. -/
theorem exec_cases {i : Instr} {s t : State} (h : exec i s = .next t) :
    (∃ r v, Instr.flagDest i = some r ∧ t = s.writeDest r v) ∨
    (∃ w, ((∃ nzp off, i = .br nzp off) ∨ ∃ base, i = .jmp base) ∧ t = s.setPc w) ∨
    (∃ w, ((∃ off, i = .jsr off) ∨ ∃ base, i = .jsrr base) ∧ t = (s.setReg linkReg s.pc).setPc w) ∨
    (∃ a v, Instr.storeAddress i s = some a ∧ t = s.memWrite a v) ∨
    (∃ code, Instr.trapCode i = some code ∧ t = dispatch code s) ∨
    (i = .rti ∧ t = s.raiseFault .illegalRti) ∨
    (i = .reserved ∧ t = s.raiseFault .illegalReserved) := by
  cases i <;> cases h
  case addReg | addImm | andReg | andImm | notOp | ld | ldi | ldr | lea => exact .inl ⟨_, _, rfl, rfl⟩
  case br nzp off => exact .inr (.inl ⟨_, .inl ⟨nzp, off, rfl⟩, rfl⟩)
  case jmp base => exact .inr (.inl ⟨_, .inr ⟨base, rfl⟩, rfl⟩)
  case jsr off => exact .inr (.inr (.inl ⟨_, .inl ⟨off, rfl⟩, rfl⟩))
  case jsrr base => exact .inr (.inr (.inl ⟨_, .inr ⟨base, rfl⟩, rfl⟩))
  case st | sti | str => exact .inr (.inr (.inr (.inl ⟨_, _, rfl, rfl⟩)))
  case trap | trapGetc | trapOut | trapPuts | trapIn | trapPutsp | trapHalt =>
    exact .inr (.inr (.inr (.inr (.inl ⟨_, rfl, rfl⟩))))
  case rti => exact .inr (.inr (.inr (.inr (.inr (.inl ⟨rfl, rfl⟩)))))
  case reserved => exact .inr (.inr (.inr (.inr (.inr (.inr ⟨rfl, rfl⟩)))))

/-- What a storing instruction does, in one equation for the three forms. -/
theorem exec_of_store {i : Instr} {s : State} {sr : Reg} {a : Word} (hr : Instr.storeSource i = some sr)
    (ha : Instr.storeAddress i s = some a) : exec i s = .next (s.memWrite a (s.reg sr)) := by
  cases i <;> cases hr <;> cases ha <;> rfl

/-! ### Dispatcher steps -/

/-- Everything a dispatcher step can do to a state whose dispatcher is not idle (43_trap.md R151). -/
theorem dispatcherStep_cases {s t : State} (hd : s.dstate ≠ .idle) (h : dispatcherStep s = .next t) :
    (∃ b rest, s.dstate = .getcWait ∧ s.input = .byte b :: rest ∧
      t = ((s.consume b rest).setReg serviceReg (zextByte b)).setDstate .idle) ∨
    (∃ rest, (s.dstate = .getcWait ∨ s.dstate = .inWait) ∧ s.input = .endOfInput :: rest ∧ t = s.raiseFault .inputEof) ∨
    (s.dstate = .outEmit ∧ t = (s.emit (lowByte (s.reg serviceReg))).setDstate .idle) ∨
    (∃ a, s.dstate = .putsScan a ∧ s.memRead a = 0x0000#16 ∧ t = s.setDstate .idle) ∨
    (∃ a, s.dstate = .putsScan a ∧ s.memRead a ≠ 0x0000#16 ∧
      t = (s.emit (lowByte (s.memRead a))).setDstate (.putsScan (aluAdd a 1#16))) ∨
    (∃ i b, s.dstate = .inPrompt i ∧ s.promptText[i]? = some b ∧ t = (s.emit b).setDstate (.inPrompt (i + 1))) ∨
    (∃ i, s.dstate = .inPrompt i ∧ s.promptText[i]? = none ∧ t = s.setDstate .inWait) ∨
    (∃ b rest, s.dstate = .inWait ∧ s.input = .byte b :: rest ∧ t = (s.consume b rest).setDstate (.inEcho b)) ∨
    (∃ b, s.dstate = .inEcho b ∧ t = ((s.emit b).setReg serviceReg (zextByte b)).setDstate .idle) ∨
    (∃ a, s.dstate = .putspLo a ∧ lowByte (s.memRead a) = 0x00#8 ∧ t = s.setDstate .idle) ∨
    (∃ a, s.dstate = .putspLo a ∧ lowByte (s.memRead a) ≠ 0x00#8 ∧
      t = (s.emit (lowByte (s.memRead a))).setDstate (.putspHi a (s.memRead a))) ∨
    (∃ a c, s.dstate = .putspHi a c ∧ highByte c = 0x00#8 ∧ t = s.setDstate .idle) ∨
    (∃ a c, s.dstate = .putspHi a c ∧ highByte c ≠ 0x00#8 ∧
      t = (s.emit (highByte c)).setDstate (.putspLo (aluAdd a 1#16))) ∨
    (∃ i b, s.dstate = .haltNotice i ∧ s.noticeText[i]? = some b ∧ t = (s.emit b).setDstate (.haltNotice (i + 1))) ∨
    (∃ i, s.dstate = .haltNotice i ∧ s.noticeText[i]? = none ∧ t = (s.setEstate .halted).setDstate .idle) := by
  unfold dispatcherStep at h
  split at h
  · next he => exact absurd he hd
  · next he =>
    rcases s.receive_cases with ⟨hi, hr⟩ | ⟨b, rest, hi, hr⟩ | ⟨rest, hi, hr⟩ <;> simp only [stepGetcWait, hr] at h <;> cases h
    · simp [he, hi]
    · simp [he, hi]
  · next he => cases h; simp [he]
  · next a he => unfold stepPutsScan at h; split at h <;> cases h <;> simp_all
  · next i he => unfold stepInPrompt at h; split at h <;> cases h <;> simp_all
  · next he =>
    rcases s.receive_cases with ⟨hi, hr⟩ | ⟨b, rest, hi, hr⟩ | ⟨rest, hi, hr⟩ <;> simp only [stepInWait, hr] at h <;> cases h
    · simp [he, hi]
    · simp [he, hi]
  · next b he => cases h; simp [he]
  · next a he => unfold stepPutspLo at h; split at h <;> cases h <;> simp_all
  · next a c he => unfold stepPutspHi at h; split at h <;> cases h <;> simp_all
  · next i he => unfold stepHaltNotice at h; split at h <;> cases h <;> simp_all

/-! ### Machine steps -/

/-- Everything a step can do: an abort, an instruction step, or a dispatcher step (70_reset_and_hazards.md R246). -/
theorem step_cases {s t : State} (h : step s = .next t) :
    s.estate = .running ∧
    ((s.abortDue = true ∧ t = s.takeAbort) ∨
     (s.abortDue = false ∧ s.dstate = .idle ∧ exec (decode (s.memRead s.pc)) s.passBoundary.fetch = .next t) ∨
     (s.abortDue = false ∧ s.dstate ≠ .idle ∧ dispatcherStep s.passBoundary = .next t)) := by
  unfold step at h
  split at h
  · next he =>
    refine ⟨he, ?_⟩
    unfold runningStep at h
    split at h
    · next ha => cases h; exact .inl ⟨ha, rfl⟩
    · next ha =>
      have ha : s.abortDue = false := by simpa using ha
      split at h
      · next hd => exact .inr (.inl ⟨ha, hd, h⟩)
      · next hd => exact .inr (.inr ⟨ha, hd, h⟩)
  · exact absurd h (by simp)
  · exact absurd h (by simp)
  · exact absurd h (by simp)

end Sys2Proof.Machine
end

