-- ==== Sys2Proof/Tests/Slice0.lean ====
section
/-! SUPPORT. The model's own tests: well-formedness, decoding, one step of each instruction and service, the loader, and a witness
for each statement with hypotheses. Expected values: the vectors of 95_test_vectors.md, named beside each test, and the worked
examples of the rules; T, M, B, O, X, L numbers are that file's. -/

open Sys2Proof Sys2Proof.Machine

namespace Sys2Proof.Tests

/-! ### Small states -/

/-- Parameters with short texts: the prompt is "?", the notice "H" and a newline. -/
def params : Params :=
  { gprReset := Vector.replicate 8 0#16, condReset := .p, inPrompt := [0x3F#8], haltNotice := [0x48#8, 0x0A#8], input := [],
    abortAfter := none }

/-- After a reset that loads nothing. -/
def base : State := State.resetWith params Memory.empty

/-- About to fetch the word `w` at `a`. -/
def fetching (a w : Word) : State := (base.setPc a).memWrite a w

/-- In the service state `d` of a TRAP word `w` fetched from 0x3000. -/
def serving (w : Word) (d : DState) : State := ((fetching 0x3000#16 w).fetch).setDstate d

/-- With deliveries at the port. -/
def fed (ds : List Delivery) (s : State) : State := { s with input := ds }

/-- What is seen of a next state. -/
def view {α : Type} (f : State → α) : Result → Option α
  | .next t => some (f t)
  | .fault _ => none
  | .refused _ => none

/-- The fault a step answers. -/
def stop : Result → Option Fault
  | .fault f => some f
  | .next _ => none
  | .refused _ => none

theorem next_of_view {p : State → Prop} [DecidablePred p] {r : Result} (h : view (fun t => decide (p t)) r = some true) :
    ∃ t, r = .next t ∧ p t := by
  cases r with
  | next t => exact ⟨t, rfl, by simpa [view] using h⟩
  | fault f => simp [view] at h
  | refused f => simp [view] at h

/-! ### Well-formedness -/

theorem test_wellFormed_refuses_service_codes : ¬ (Instr.trap 0x20#8).WellFormed ∧ ¬ (Instr.trap 0x25#8).WellFormed := by decide

theorem test_wellFormed_accepts_unknown_codes :
    (Instr.trap 0x1F#8).WellFormed ∧ (Instr.trap 0x26#8).WellFormed ∧ Instr.trapHalt.WellFormed := by decide

/-! ### Decoding: words written out bit by bit from 30_encoding.md R82 -/

theorem test_decode_operate :
    decode 0b0001011001000010#16 = .addReg 3 1 2 ∧ decode 0b0001010001111111#16 = .addImm 2 1 0b11111#5 ∧
    decode 0b0101011001000010#16 = .andReg 3 1 2 ∧ decode 0b0101011001110000#16 = .andImm 3 1 0b10000#5 ∧
    decode 0b1001001010111111#16 = .notOp 1 2 := by decide

theorem test_decode_control :
    decode 0b0000100000000011#16 = .br 0b100#3 3#9 ∧ decode 0b1100000010000000#16 = .jmp 2 ∧
    decode 0b0100100000000100#16 = .jsr 4#11 ∧ decode 0b0100000011000000#16 = .jsrr 3 := by decide

theorem test_decode_load_store :
    decode 0b0010001000000010#16 = .ld 1 2#9 ∧ decode 0b1010010000000001#16 = .ldi 2 1#9 ∧
    decode 0b0110011100111110#16 = .ldr 3 4 0b111110#6 ∧ decode 0b1110000000000101#16 = .lea 0 5#9 ∧
    decode 0b0011001000000100#16 = .st 1 4#9 ∧ decode 0b1011001000000001#16 = .sti 1 1#9 ∧
    decode 0b0111010011011111#16 = .str 2 3 31#6 := by decide

theorem test_decode_trap_illegal :
    decode 0b1111000000100000#16 = .trapGetc ∧ decode 0b1111000000100001#16 = .trapOut ∧
    decode 0b1111000000100010#16 = .trapPuts ∧ decode 0b1111000000100011#16 = .trapIn ∧
    decode 0b1111000000100100#16 = .trapPutsp ∧ decode 0b1111000000100101#16 = .trapHalt ∧
    decode 0b1111000000011111#16 = .trap 0x1F#8 ∧ decode 0b1000000000000000#16 = .rti ∧
    decode 0b1101111010101101#16 = .reserved := by decide

/-- O6, O16, B11, T3, X2: bits no field uses. -/
theorem test_decode_ignores_unused_bits :
    decode 0x165A#16 = .addReg 3 1 2 ∧ decode 0x9640#16 = .notOp 3 1 ∧ decode 0xCE3F#16 = .jmp 0 ∧
    decode 0xF120#16 = .trapGetc ∧ decode 0x8FFF#16 = .rti := by decide

/-- The words the conventional assembler writes (R92, R93). -/
theorem test_encode_words :
    encode (.notOp 1 2) = 0x92BF#16 ∧ encode (.jmp 7) = 0xC1C0#16 ∧ encode (.ldr 3 4 0b111110#6) = 0x673E#16 ∧
    encode (.jsrr 3) = 0x40C0#16 ∧ encode .trapHalt = 0xF025#16 := by decide

theorem test_decode_table_word :
    decodeTableWord 16 0x1642 = some (.addReg 3 1 2) ∧ decodeTableWord 32 0x1642 = none ∧
    (decodeBytes [0x16#8]).toOption = none := by decide

theorem test_opcode_rows_disjoint :
    baseRows.Pairwise (fun r q => r.2 &&& q.1 &&& r.1 ≠ q.2 &&& r.1 &&& q.1) := by decide

/-! ### One step of each instruction -/

/-- O1. -/
theorem test_add_overflow_wraps :
    view (fun t => (t.reg 3, t.cond, t.pc)) (step (((fetching 0x3000#16 0x1642#16).setReg 1 0x7FFF#16).setReg 2 1#16)) =
      some (0x8000#16, .n, 0x3001#16) := by decide

/-- O2. -/
theorem test_addImm_carry_is_lost :
    view (fun t => (t.reg 3, t.cond)) (step ((fetching 0x3000#16 0x1661#16).setReg 1 0xFFFF#16)) = some (0#16, .z) := by decide

/-- O3. -/
theorem test_addImm_most_negative :
    view (fun t => (t.reg 3, t.cond)) (step ((fetching 0x3000#16 0x1670#16).setReg 1 0x10#16)) = some (0#16, .z) := by decide

/-- O8. -/
theorem test_and_register :
    view (fun t => (t.reg 3, t.cond)) (step (((fetching 0x3000#16 0x5642#16).setReg 1 0xF0F0#16).setReg 2 0x0FF0#16)) =
      some (0x00F0#16, .p) := by decide

/-- O9. -/
theorem test_andImm_extends_the_sign :
    view (fun t => (t.reg 3, t.cond)) (step ((fetching 0x3000#16 0x5670#16).setReg 1 0x1234#16)) = some (0x1230#16, .p) := by decide

/-- O17. -/
theorem test_not :
    view (fun t => (t.reg 1, t.cond)) (step ((fetching 0x3000#16 0x92BF#16).setReg 2 0x00FF#16)) = some (0xFF00#16, .n) := by decide

/-- B1, B2, B3. -/
theorem test_br_selects_the_flag :
    view State.pc (step ((fetching 0x3000#16 0x0803#16).setCond .n)) = some 0x3004#16 ∧
    view State.pc (step ((fetching 0x3000#16 0x0403#16).setCond .n)) = some 0x3001#16 ∧
    view State.pc (step ((fetching 0x3000#16 0x0203#16).setCond .n)) = some 0x3001#16 := by decide

/-- B8. -/
theorem test_br_wraps : view State.pc (step (fetching 0xFFFF#16 0x0201#16)) = some 0x0001#16 := by decide

/-- B10. -/
theorem test_ret :
    view (fun t => (t.pc, t.reg 7)) (step ((fetching 0x3000#16 0xC1C0#16).setReg 7 0x3456#16)) =
      some (0x3456#16, 0x3456#16) := by decide

/-- B13. -/
theorem test_jsr_backward :
    view (fun t => (t.reg 7, t.pc)) (step (fetching 0x3000#16 0x4C00#16)) = some (0x3001#16, 0x2C01#16) := by decide

/-- B18. -/
theorem test_jsr_wraps :
    view (fun t => (t.reg 7, t.pc)) (step (fetching 0xFFFF#16 0x4800#16)) = some (0x0000#16, 0x0000#16) := by decide

/-- B16. -/
theorem test_jsrr :
    view (fun t => (t.reg 7, t.pc)) (step ((fetching 0x3000#16 0x40C0#16).setReg 3 0x5000#16)) =
      some (0x3001#16, 0x5000#16) := by decide

/-- B17. -/
theorem test_jsrr_r7_falls_through :
    view (fun t => (t.reg 7, t.pc)) (step ((fetching 0x3000#16 0x41C0#16).setReg 7 0x1234#16)) =
      some (0x3001#16, 0x3001#16) := by decide

/-- M3. -/
theorem test_ld_wraps :
    view (fun t => (t.pc, t.reg 1, t.cond)) (step ((fetching 0xFFFF#16 0x2201#16).memWrite 0x0001#16 0x8000#16)) =
      some (0x0000#16, 0x8000#16, .n) := by decide

/-- M4. -/
theorem test_ldi_follows_the_pointer :
    view (fun t => (t.reg 2, t.cond)) (step (((fetching 0x3000#16 0xA401#16).memWrite 0x3002#16 0x4000#16).setReg 2 7#16)) =
      some (0#16, .z) := by decide

/-- M5. -/
theorem test_ldi_pointer_to_itself :
    view (fun t => (t.reg 2, t.cond)) (step ((fetching 0x3000#16 0xA400#16).memWrite 0x3001#16 0x3001#16)) =
      some (0x3001#16, .p) := by decide

/-- M6. -/
theorem test_ldr_wraps_below_zero :
    view (fun t => (t.reg 3, t.cond)) (step ((fetching 0x3000#16 0x673F#16).memWrite 0xFFFF#16 0x7777#16)) =
      some (0x7777#16, .p) := by decide

/-- M7. -/
theorem test_ldr_destination_is_base :
    view (fun t => (t.reg 4, t.cond)) (step (((fetching 0x3000#16 0x6900#16).setReg 4 0x4000#16).memWrite 0x4000#16 0x9999#16)) =
      some (0x9999#16, .n) := by decide

/-- M9, M10. -/
theorem test_lea_uses_the_incremented_pc :
    view (fun t => (t.reg 0, t.cond)) (step (fetching 0x2FFF#16 0xE005#16)) = some (0x3005#16, .p) ∧
    view (fun t => (t.reg 0, t.cond)) (step (fetching 0x3000#16 0xE005#16)) = some (0x3006#16, .p) := by decide

/-- M11. -/
theorem test_lea_zero :
    view (fun t => (t.reg 0, t.cond)) (step (fetching 0xFFFF#16 0xE000#16)) = some (0#16, .z) := by decide

/-- M14: the store overwrites its own word, and the flag keeps its start value. -/
theorem test_st_over_itself :
    view (fun t => (t.memRead 0x3000#16, t.cond)) (step ((fetching 0x3000#16 0x33FF#16).setReg 1 0xBEEF#16)) =
      some (0xBEEF#16, .p) := by decide

/-- M15. -/
theorem test_sti_over_its_pointer :
    view (fun t => t.memRead 0x3002#16) (step (((fetching 0x3000#16 0xB201#16).setReg 1 7#16).memWrite 0x3002#16 0x3002#16)) =
      some 7#16 := by decide

/-- M16. -/
theorem test_str_most_negative_offset :
    view (fun t => t.memRead 0xFFF0#16) (step (((fetching 0x3000#16 0x74E0#16).setReg 2 0xAB#16).setReg 3 0x10#16)) =
      some 0xAB#16 := by decide

/-- M17. -/
theorem test_str_source_is_base :
    view (fun t => t.memRead 0x4001#16) (step ((fetching 0x3000#16 0x76C1#16).setReg 3 0x4000#16)) = some 0x4000#16 := by decide

/-- X1, X5. -/
theorem test_illegal_opcodes_fault :
    view State.status (step (fetching 0x3000#16 0x8000#16)) = some ⟨.faulted, 0x1#4, 0x3000#16, 0x8000#16⟩ ∧
    view State.status (step (fetching 0x3010#16 0xDEAD#16)) = some ⟨.faulted, 0x2#4, 0x3010#16, 0xDEAD#16⟩ := by decide

/-- T20, T22: the codes on either side of the six. -/
theorem test_unknown_trap_codes_fault :
    view State.status (step (fetching 0x3000#16 0xF01F#16)) = some ⟨.faulted, 0x3#4, 0x3000#16, 0xF01F#16⟩ ∧
    view State.status (step (fetching 0x3000#16 0xF026#16)) = some ⟨.faulted, 0x3#4, 0x3000#16, 0xF026#16⟩ := by decide

/-- The table of R152; PUTS and PUTSP latch R0; pc is A + 1 and R7 keeps its value (R150). -/
theorem test_dispatch_starts_services :
    view (fun t => (t.dstate, t.pc)) (step (fetching 0x3000#16 0xF020#16)) = some (.getcWait, 0x3001#16) ∧
    view State.dstate (step (fetching 0x3000#16 0xF021#16)) = some .outEmit ∧
    view State.dstate (step ((fetching 0x3000#16 0xF022#16).setReg 0 0x4000#16)) = some (.putsScan 0x4000#16) ∧
    view (fun t => (t.dstate, t.reg 7)) (step ((fetching 0x3000#16 0xF023#16).setReg 7 9#16)) = some (.inPrompt 0, 9#16) ∧
    view State.dstate (step ((fetching 0x3000#16 0xF024#16).setReg 0 0x4000#16)) = some (.putspLo 0x4000#16) ∧
    view (fun t => (t.dstate, t.estate)) (step (fetching 0x3000#16 0xFF25#16)) = some (.haltNotice 0, .running) := by decide

/-! ### One dispatcher step of each service state (43_trap.md R151) -/

/-- T3: the byte is zero-extended and nothing is echoed; the flag keeps its start value. -/
theorem test_getc_byte :
    view (fun t => (t.reg 0, t.output, t.consumed, t.dstate, t.cond))
      (step (fed [.byte 0xFF#8] (serving 0xF020#16 .getcWait))) = some (0x00FF#16, [], [0xFF#8], .idle, .p) := by decide

/-- T4. -/
theorem test_getc_end_of_input :
    view (fun t => (t.status, t.reg 0, t.pc, t.dstate)) (step (fed [.endOfInput] (serving 0xF020#16 .getcWait))) =
      some (⟨.faulted, 0x4#4, 0x3000#16, 0xF020#16⟩, 0#16, 0x3001#16, .idle) := by decide

/-- T5. -/
theorem test_out_low_byte :
    view (fun t => (t.output, t.reg 0, t.dstate)) (step ((serving 0xF021#16 .outEmit).setReg 0 0xFF0A#16)) =
      some ([0x0A#8], 0xFF0A#16, .idle) := by decide

/-- T9, T10: the scan wraps, and a non-zero cell with a zero low byte emits 00. -/
theorem test_puts_scan_wraps :
    view (fun t => (t.output, t.dstate)) (step ((serving 0xF022#16 (.putsScan 0xFFFF#16)).memWrite 0xFFFF#16 0x0100#16)) =
      some ([0x00#8], .putsScan 0x0000#16) := by decide

/-- T7. -/
theorem test_puts_zero_cell_ends :
    view (fun t => (t.output, t.dstate)) (step (serving 0xF022#16 (.putsScan 0x4000#16))) = some ([], .idle) := by decide

/-- T11: the last prompt byte, and then the wait (the prompt takes len + 1 steps). -/
theorem test_in_prompt :
    view (fun t => (t.output, t.dstate)) (step (serving 0xF023#16 (.inPrompt 0))) = some ([0x3F#8], .inPrompt 1) ∧
    view (fun t => (t.output, t.dstate)) (step (serving 0xF023#16 (.inPrompt 1))) = some ([], .inWait) := by decide

/-- T11: the byte read is latched, then echoed and stored. -/
theorem test_in_echo :
    view (fun t => (t.consumed, t.dstate, t.output)) (step (fed [.byte 0x78#8] (serving 0xF023#16 .inWait))) =
      some ([0x78#8], .inEcho 0x78#8, []) ∧
    view (fun t => (t.output, t.reg 0, t.dstate)) (step (serving 0xF023#16 (.inEcho 0x78#8))) =
      some ([0x78#8], 0x0078#16, .idle) := by decide

/-- T13: a zero low byte ends the string though the high byte is not zero. -/
theorem test_putsp_low_byte :
    view (fun t => (t.output, t.dstate)) (step ((serving 0xF024#16 (.putspLo 0x4000#16)).memWrite 0x4000#16 0x4800#16)) =
      some ([], .idle) ∧
    view (fun t => (t.output, t.dstate)) (step ((serving 0xF024#16 (.putspLo 0x4000#16)).memWrite 0x4000#16 0x6968#16)) =
      some ([0x68#8], .putspHi 0x4000#16 0x6968#16) := by decide

/-- T14, T15. -/
theorem test_putsp_high_byte :
    view (fun t => (t.output, t.dstate)) (step (serving 0xF024#16 (.putspHi 0x4000#16 0x0048#16))) = some ([], .idle) ∧
    view (fun t => (t.output, t.dstate)) (step (serving 0xF024#16 (.putspHi 0x4000#16 0x6968#16))) =
      some ([0x69#8], .putspLo 0x4001#16) := by decide

/-- T17: a notice byte, and the stop when all are out (HALT takes len + 1 steps). -/
theorem test_halt :
    view (fun t => (t.output, t.estate)) (step (serving 0xF025#16 (.haltNotice 1))) = some ([0x0A#8], .running) ∧
    view (fun t => (t.output, t.estate, t.dstate, t.pc)) (step (serving 0xF025#16 (.haltNotice 2))) =
      some ([], .halted, .idle, 0x3001#16) := by decide

/-! ### Stops, aborts, launch -/

/-- R246, R161. -/
theorem test_no_step :
    stop (step (base.setEstate .halted)) = some .engineHalted ∧ stop (step (base.setEstate .faulted)) = some .engineFaulted ∧
    stop (step (base.setEstate .aborted)) = some .engineAborted ∧
    stop (step (serving 0xF020#16 .getcWait)) = some .awaitingInput := by decide

/-- R204: at the boundary, at once in a wait, and not before its time. -/
theorem test_abort :
    view (fun t => (t.estate, t.pc)) (step (base.scheduleAbort 0)) = some (.aborted, 0x3000#16) ∧
    view (fun t => (t.estate, t.dstate)) (step ((serving 0xF023#16 .inWait).scheduleAbort 9)) = some (.aborted, .inWait) ∧
    view (fun t => (t.estate, t.pc, t.abortAfter)) (step (base.scheduleAbort 1)) = some (.running, 0x3001#16, some 0) := by decide

/-- What the loader answers, in a form `decide` compares. -/
def loaded (image : List Byte) : Option (List Cell) × Option LoadFault :=
  match load (some image) with
  | .ok m => (some m.cells, none)
  | .error f => (none, some f)

/-- L1, L2, L6, L8. -/
theorem test_load_good_images :
    loaded [0x30, 0x00, 0x12, 0x34, 0xAB, 0xCD] = (some [(0x3000, 0x1234), (0x3001, 0xABCD)], none) ∧
    loaded [0x30, 0x00] = (some [], none) ∧ loaded [0xFF, 0xFF, 0x00, 0x01] = (some [(0xFFFF, 0x0001)], none) ∧
    loaded [0x40, 0x00, 0xF0, 0x25] = (some [(0x4000, 0xF025)], none) := by decide

/-- L3, L4, L5, L7. -/
theorem test_load_bad_images :
    loaded [] = (none, some .noOrigin) ∧ loaded [0x30] = (none, some .truncatedWord) ∧
    loaded [0x30, 0x00, 0x12] = (none, some .truncatedWord) ∧
    loaded [0xFF, 0xFF, 0x00, 0x01, 0x00, 0x02] = (none, some .overflow) := by decide

/-- `State.reset` is the launch of the image that loads nothing, with the chosen parameters (log 12). -/
theorem test_reset_is_a_launch : launch Params.chosen (some [0x30, 0x00]) = .ok State.reset := rfl

/-- The word placed at reset's first fetch runs (ADD R0, R1, R2). -/
theorem test_withFetchWord_runs :
    view (fun t => (t.ir, t.pc)) (step (State.reset.withFetchWord 16 0x1042)) = some (0x1042#16, 0x3001#16) := by decide

theorem test_deliver_is_last_in_line :
    ((base.deliver (.byte 1#8)).deliver .endOfInput).input = [.byte 1#8, .endOfInput] := by decide

theorem test_memory_stays_canonical :
    ((base.memWrite 5#16 1#16).memWrite 3#16 2#16).mem = ⟨[(3, 2#16), (5, 1#16)]⟩ ∧
    ((base.memWrite 5#16 1#16).memWrite 5#16 0#16).mem = Memory.empty ∧
    (base.memWrite 0xFFFF#16 1#16).mem.wf = true ∧ Memory.wf ⟨[(5, 1#16), (3, 2#16)]⟩ = false := by decide

/-! ### Witnesses: for each statement with hypotheses, a case that meets them together -/

theorem ready_fetching (a w : Word) : (fetching a w).ReadyToFetch := ⟨rfl, rfl, rfl⟩

theorem noAbort_of_none {s : State} (h : s.abortAfter = none) (k : Nat) : s.NoAbortFor k := by
  intro n hn
  rw [h] at hn
  cases hn

theorem noAbort_of_some {s : State} {k : Nat} (h : s.abortAfter = some k) : s.NoAbortFor k := by
  intro n hn
  rw [h] at hn
  cases hn
  exact Nat.le_refl k

theorem witness_DecodeOfEncodeIsIdentity :
    (Instr.trap 0x26#8).WellFormed ∧ (Instr.trap 0xFF#8).WellFormed ∧ (Instr.ldr 7 7 0b111111#6).WellFormed := by decide

theorem witness_TrapWordCarriesItsLowByte : (0xFF25#16).extractLsb' 12 4 = 0b1111#4 := by decide

theorem witness_SignExtensionReplicatesTheSignBit :
    (5 ∈ [5, 6, 9, 11] ∧ sext 0b10000#5 = 0xFFF0#16) ∧ (6 ∈ [5, 6, 9, 11] ∧ sext 0b011111#6 = 0x001F#16) ∧
    (9 ∈ [5, 6, 9, 11] ∧ sext 0x100#9 = 0xFF00#16) ∧ (11 ∈ [5, 6, 9, 11] ∧ sext 0x3FF#11 = 0x03FF#16) := by decide

/-- V12 to V16: each clause of the flag rule at the ends of its range. -/
theorem witness_SetccFollowsTheWord :
    condOf 0x0000#16 = .z ∧ condOf 0x0001#16 = .p ∧ condOf 0x7FFF#16 = .p ∧ condOf 0x8000#16 = .n ∧ condOf 0xFFFF#16 = .n := by
  decide

theorem witness_SetccFollowsTheWord_dr : (∃ t, exec (.lea 0 5#9) base = .next t) ∧ Instr.flagDest (.lea 0 5#9) = some 0 :=
  ⟨⟨_, rfl⟩, rfl⟩

theorem witness_OnlySevenInstructionsSetTheFlag :
    (∃ t, exec (.lea 0 5#9) base = .next t ∧ Instr.flagDest (.lea 0 5#9) = some 0) ∧
    (∃ t, exec .trapGetc base = .next t ∧ Instr.flagDest .trapGetc = none) ∧
    (∃ t, step (serving 0xF021#16 .outEmit) = .next t ∧ (serving 0xF021#16 .outEmit).dstate ≠ .idle) ∧
    (∀ nzp off, Instr.lea 0 5#9 ≠ .br nzp off) :=
  ⟨⟨_, rfl, rfl⟩, ⟨_, rfl, rfl⟩, next_of_view (by decide), by intro _ _ h; cases h⟩

/-- The opcode hypotheses of the per-instruction decode clauses, in the order of the opcode map. -/
theorem witness_opcode_hypotheses :
    (0x0803#16).extractLsb' 12 4 = 0b0000#4 ∧ (0x1642#16).extractLsb' 12 4 = 0b0001#4 ∧
    (0x2202#16).extractLsb' 12 4 = 0b0010#4 ∧ (0x3204#16).extractLsb' 12 4 = 0b0011#4 ∧
    ((0x4804#16).extractLsb' 12 4 = 0b0100#4 ∧ (0x4804#16).getLsbD 11 = true) ∧
    ((0x40C0#16).extractLsb' 12 4 = 0b0100#4 ∧ (0x40C0#16).getLsbD 11 = false) ∧
    (0x5642#16).extractLsb' 12 4 = 0b0101#4 ∧ (0x673E#16).extractLsb' 12 4 = 0b0110#4 ∧
    (0x74DF#16).extractLsb' 12 4 = 0b0111#4 ∧ (0x8000#16).extractLsb' 12 4 = 0b1000#4 ∧
    (0x92BF#16).extractLsb' 12 4 = 0b1001#4 ∧ (0xA401#16).extractLsb' 12 4 = 0b1010#4 ∧
    (0xB201#16).extractLsb' 12 4 = 0b1011#4 ∧ (0xC1C0#16).extractLsb' 12 4 = 0b1100#4 ∧
    (0xDEAD#16).extractLsb' 12 4 = 0b1101#4 ∧ (0xE005#16).extractLsb' 12 4 = 0b1110#4 := by decide

theorem witness_AddWritesTheSum : (0x1642#16).extractLsb' 12 4 = 0b0001#4 ∧ (0x165F#16).extractLsb' 12 4 = 0b0001#4 := by decide

theorem witness_AndWritesTheConjunction : (0x5642#16).extractLsb' 12 4 = 0b0101#4 ∧ (0x567F#16).extractLsb' 12 4 = 0b0101#4 := by
  decide

theorem witness_NotWritesTheComplement : (0x92BF#16).extractLsb' 12 4 = 0b1001#4 := by decide

theorem witness_LdLoadsPcRelative : (0x2FFF#16).extractLsb' 12 4 = 0b0010#4 := by decide

theorem witness_LdiLoadsThroughThePointer : (0xA401#16).extractLsb' 12 4 = 0b1010#4 := by decide

theorem witness_LdrLoadsBasePlusOffset : (0x673E#16).extractLsb' 12 4 = 0b0110#4 := by decide

theorem witness_LeaWritesTheAddress :
    (0xE005#16).extractLsb' 12 4 = 0b1110#4 ∧ ∃ t, exec (.lea 0 5#9) base = .next t := ⟨by decide, _, rfl⟩

theorem witness_StStoresPcRelative :
    (0x3204#16).extractLsb' 12 4 = 0b0011#4 ∧ ∃ t, exec (.st 1 0#9) base = .next t := ⟨by decide, _, rfl⟩

theorem witness_StiStoresThroughThePointer : (0xB201#16).extractLsb' 12 4 = 0b1011#4 := by decide

theorem witness_StrStoresBasePlusOffset : (0x74DF#16).extractLsb' 12 4 = 0b0111#4 := by decide

/-- The load from the stored address, and one from its neighbour. -/
theorem witness_LoadAfterStoreReadsTheStoredWord :
    (∃ t, exec (.str 1 2 31#6) base = .next t) ∧ eaBaseOffset 2 31#6 base = eaBaseOffset 2 31#6 base ∧
    eaBaseOffset 2 0b100000#6 base ≠ eaBaseOffset 2 31#6 base := ⟨⟨_, rfl⟩, rfl, by decide⟩

/-- Two orders of writing lead to memories that read alike. -/
theorem witness_CanonicalMemoriesReadAlikeAreEqual :
    ((Memory.empty.set 5 1#16).set 3 2#16).wf = true ∧ ((Memory.empty.set 3 2#16).set 5 1#16).wf = true ∧
    ∀ a : Word, ((Memory.empty.set 5 1#16).set 3 2#16).get a.toNat = ((Memory.empty.set 3 2#16).set 5 1#16).get a.toNat := by
  have h : (Memory.empty.set 5 1#16).set 3 2#16 = (Memory.empty.set 3 2#16).set 5 1#16 := by decide
  exact ⟨by decide, by decide, fun a => by rw [h]⟩

theorem witness_BrTestsTheSelectedFlags : (0x0803#16).extractLsb' 12 4 = 0b0000#4 := by decide

theorem witness_JmpGoesToTheRegister : (0xCE3F#16).extractLsb' 12 4 = 0b1100#4 := by decide

theorem witness_JsrLinksAndJumps : (0x4C00#16).extractLsb' 12 4 = 0b0100#4 ∧ (0x4C00#16).getLsbD 11 = true := by decide

theorem witness_JsrrLinksBeforeReadingTheBase :
    (0x41C0#16).extractLsb' 12 4 = 0b0100#4 ∧ (0x41C0#16).getLsbD 11 = false ∧ (6 : Reg) ≠ 7 ∧ (7 : Reg) = 7 := by decide

theorem witness_OnlyFourInstructionsMovePc :
    ((fetching 0xFFFF#16 0x0201#16).ReadyToFetch ∧ ∃ t, step (fetching 0xFFFF#16 0x0201#16) = .next t ∧ t.pc = 0x0001#16) ∧
    ((serving 0xF021#16 .outEmit).dstate ≠ .idle ∧ ∃ t, step (serving 0xF021#16 .outEmit) = .next t ∧ t.pc = 0x3001#16) :=
  ⟨⟨ready_fetching _ _, next_of_view (by decide)⟩, by decide, next_of_view (by decide)⟩

theorem witness_RegistersChangeOnlyAsNamed :
    (∃ t, step (fetching 0x3000#16 0x4800#16) = .next t ∧ t.reg 7 ≠ (fetching 0x3000#16 0x4800#16).reg 7) ∧
    (∃ t, step (fetching 0x3000#16 0xE005#16) = .next t ∧ t.reg 0 ≠ (fetching 0x3000#16 0xE005#16).reg 0) ∧
    (∃ t, step (fed [.byte 0xFF#8] (serving 0xF020#16 .getcWait)) = .next t ∧
      t.reg 0 ≠ (fed [.byte 0xFF#8] (serving 0xF020#16 .getcWait)).reg 0) ∧
    (∃ t, step (serving 0xF023#16 (.inEcho 1#8)) = .next t ∧ t.reg 0 ≠ (serving 0xF023#16 (.inEcho 1#8)).reg 0) :=
  ⟨next_of_view (by decide), next_of_view (by decide), next_of_view (by decide), next_of_view (by decide)⟩

theorem witness_MemoryChangesOnlyAtTheStoreAddress :
    ∃ t, step ((fetching 0x3000#16 0x3200#16).setReg 1 0xF025#16) = .next t ∧
      t.memRead 0x3001#16 ≠ ((fetching 0x3000#16 0x3200#16).setReg 1 0xF025#16).memRead 0x3001#16 := next_of_view (by decide)

/-- M13, with the abort as early as the statement lets it come. -/
theorem witness_StoreIsSeenByTheNextFetch_st :
    let s := ((fetching 0x3000#16 0x3200#16).setReg 1 0xF025#16).scheduleAbort 2
    s.ReadyToFetch ∧ s.NoAbortFor 2 ∧ Instr.storeSource (decode (s.memRead s.pc)) = some 1 ∧
    Instr.storeAddress (decode (s.memRead s.pc)) s.fetch = some (s.pc + 1#16) :=
  ⟨⟨rfl, rfl, rfl⟩, noAbort_of_some rfl, by decide, by decide⟩

/-- STI R1, #1 at the last address, its pointer naming the wrapped A + 1. -/
theorem witness_StoreIsSeenByTheNextFetch_sti :
    let s := (fetching 0xFFFF#16 0xB201#16).memWrite 0x0001#16 0x0000#16
    s.ReadyToFetch ∧ s.NoAbortFor 2 ∧ Instr.storeSource (decode (s.memRead s.pc)) = some 1 ∧
    Instr.storeAddress (decode (s.memRead s.pc)) s.fetch = some (s.pc + 1#16) :=
  ⟨⟨rfl, rfl, rfl⟩, noAbort_of_none rfl 2, by decide, by decide⟩

/-- STR R2, R3, #31. -/
theorem witness_StoreIsSeenByTheNextFetch_str :
    let s := (fetching 0x3000#16 0x74DF#16).setReg 3 0x2FE2#16
    s.ReadyToFetch ∧ s.NoAbortFor 2 ∧ Instr.storeSource (decode (s.memRead s.pc)) = some 2 ∧
    Instr.storeAddress (decode (s.memRead s.pc)) s.fetch = some (s.pc + 1#16) :=
  ⟨⟨rfl, rfl, rfl⟩, noAbort_of_none rfl 2, by decide, by decide⟩

theorem witness_FetchOverwritesTheInstructionRegister : base.ReadyToFetch := ⟨rfl, rfl, rfl⟩

/-- Each side of each range of codes. -/
theorem witness_TrapStartsTheServiceOfItsCode :
    (0x1F#8).toNat < 0x20 ∧ (0x20 ≤ (0x20#8).toNat ∧ (0x20#8).toNat ≤ 0x25) ∧ (0x20 ≤ (0x25#8).toNat ∧ (0x25#8).toNat ≤ 0x25) ∧
    0x25 < (0x26#8).toNat := by decide

theorem witness_ServiceInstructionsEnterTheirService :
    (Instr.trapPuts, DState.putsScan (base.reg 0)) ∈
      [(Instr.trapGetc, DState.getcWait), (.trapOut, .outEmit), (.trapPuts, .putsScan (base.reg 0)), (.trapIn, .inPrompt 0),
        (.trapPutsp, .putspLo (base.reg 0)), (.trapHalt, .haltNotice 0)] := by decide

theorem witness_GetcReadsOneByte :
    (let s := (fed [.byte 0xFF#8] (fetching 0x3000#16 0xF120#16)).scheduleAbort 2
     s.ReadyToFetch ∧ s.NoAbortFor 2 ∧ decode (s.memRead s.pc) = .trapGetc ∧ s.input = .byte 0xFF#8 :: []) ∧
    (let s := fed [.endOfInput] (fetching 0x3000#16 0xF020#16)
     s.ReadyToFetch ∧ s.NoAbortFor 2 ∧ decode (s.memRead s.pc) = .trapGetc ∧ s.input = .endOfInput :: []) :=
  ⟨⟨⟨rfl, rfl, rfl⟩, noAbort_of_some rfl, by decide, rfl⟩, ⟨⟨rfl, rfl, rfl⟩, noAbort_of_none rfl 2, by decide, rfl⟩⟩

theorem witness_OutEmitsTheLowByteOfR0 :
    (fetching 0x3000#16 0xF021#16).ReadyToFetch ∧ (fetching 0x3000#16 0xF021#16).NoAbortFor 2 ∧
    decode ((fetching 0x3000#16 0xF021#16).memRead (fetching 0x3000#16 0xF021#16).pc) = .trapOut :=
  ⟨⟨rfl, rfl, rfl⟩, noAbort_of_none rfl 2, by decide⟩

/-- T9: a string that wraps at 0xFFFF. -/
def putsState : State :=
  (((fetching 0x3000#16 0xF022#16).memWrite 0xFFFF#16 0x0041#16).memWrite 0x0000#16 0x0042#16).setReg 0 0xFFFF#16

theorem witness_PutsPrintsUpToTheZeroCell :
    putsState.ReadyToFetch ∧ putsState.NoAbortFor 4 ∧ decode (putsState.memRead putsState.pc) = .trapPuts ∧
    (∀ k, (h : k < [0x0041#16, 0x0042#16].length) →
      putsState.memRead (putsState.reg 0 + BitVec.ofNat 16 k) = [0x0041#16, 0x0042#16][k] ∧ [0x0041#16, 0x0042#16][k] ≠ 0x0000#16) ∧
    putsState.memRead (putsState.reg 0 + BitVec.ofNat 16 2) = 0x0000#16 :=
  ⟨⟨rfl, rfl, rfl⟩, noAbort_of_none rfl 4, by decide, by decide, by decide⟩

/-- T7: the empty string. -/
theorem witness_PutsPrintsUpToTheZeroCell_empty :
    let s := (fetching 0x3000#16 0xF022#16).setReg 0 0x4000#16
    s.ReadyToFetch ∧ s.NoAbortFor 2 ∧ decode (s.memRead s.pc) = .trapPuts ∧
    (∀ k, (h : k < ([] : List Word).length) →
      s.memRead (s.reg 0 + BitVec.ofNat 16 k) = ([] : List Word)[k] ∧ ([] : List Word)[k] ≠ 0x0000#16) ∧
    s.memRead (s.reg 0 + BitVec.ofNat 16 0) = 0x0000#16 :=
  ⟨⟨rfl, rfl, rfl⟩, noAbort_of_none rfl 2, by decide, by decide, by decide⟩

/-- Memory with the word 1 in every one of `n` cells from address 0 on. -/
def onesMemory (n : Nat) : Memory := ⟨(List.range n).map (fun a => (a, 1#16))⟩

theorem lookup_ones {a : Nat} {l : List Nat} (h : a ∈ l) : Memory.lookup a (l.map (fun a => (a, 1#16))) = 1#16 := by
  induction l with
  | nil => cases h
  | cons b l ih =>
    simp only [List.map_cons, Memory.lookup]
    split
    · rfl
    · next hne => exact ih (by simpa [Ne.symm hne] using h)

/-- Scanning from 0xFFFF over `onesMemory n`, with the abort after nine steps. -/
def onesState (n : Nat) : State :=
  { serving 0xF022#16 (.putsScan 0xFFFF#16) with mem := onesMemory n, abortAfter := some 9 }

theorem memRead_onesState {n : Nat} {x : Word} (h : x.toNat < n) : (onesState n).memRead x = 1#16 :=
  lookup_ones (List.mem_range.2 h)

theorem witness_PutsWithoutTerminatorNeverEnds :
    (onesState 65536).estate = .running ∧ (onesState 65536).dstate = .putsScan 0xFFFF#16 ∧ (onesState 65536).NoAbortFor 9 ∧
    ∀ x, (onesState 65536).memRead x ≠ 0x0000#16 :=
  ⟨rfl, rfl, noAbort_of_some rfl, fun x => by rw [memRead_onesState x.isLt]; decide⟩

theorem witness_InPromptsReadsAndEchoes :
    (let s := fed [.byte 0x78#8] (fetching 0x3000#16 0xF023#16)
     s.ReadyToFetch ∧ s.NoAbortFor (s.promptText.length + 4) ∧ decode (s.memRead s.pc) = .trapIn ∧ s.input = .byte 0x78#8 :: []) ∧
    (let s := fed [.endOfInput] (fetching 0x3000#16 0xF023#16)
     s.ReadyToFetch ∧ s.NoAbortFor (s.promptText.length + 4) ∧ decode (s.memRead s.pc) = .trapIn ∧ s.input = .endOfInput :: []) :=
  ⟨⟨⟨rfl, rfl, rfl⟩, noAbort_of_none rfl _, by decide, rfl⟩, ⟨⟨rfl, rfl, rfl⟩, noAbort_of_none rfl _, by decide, rfl⟩⟩

/-- T16: a full cell, then one whose high byte ends the string. -/
def putspState : State :=
  (((fetching 0x3000#16 0xF024#16).memWrite 0x4000#16 0x4948#16).memWrite 0x4001#16 0x0021#16).setReg 0 0x4000#16

theorem witness_PutspPrintsUpToTheZeroByte :
    putspState.ReadyToFetch ∧ putspState.NoAbortFor 5 ∧ decode (putspState.memRead putspState.pc) = .trapPutsp ∧
    (∀ k, (h : k < [0x4948#16].length) → putspState.memRead (putspState.reg 0 + BitVec.ofNat 16 k) = [0x4948#16][k] ∧
      lowByte [0x4948#16][k] ≠ 0#8 ∧ highByte [0x4948#16][k] ≠ 0#8) ∧
    putspState.memRead (putspState.reg 0 + BitVec.ofNat 16 1) = 0x0021#16 ∧ (lowByte 0x0021#16 = 0#8 ∨ highByte 0x0021#16 = 0#8) :=
  ⟨⟨rfl, rfl, rfl⟩, noAbort_of_none rfl 5, by decide, by decide, by decide, by decide⟩

/-- T13: the string that a zero low byte ends at once, though the high byte is not zero. -/
theorem witness_PutspPrintsUpToTheZeroByte_low :
    let s := ((fetching 0x3000#16 0xF024#16).memWrite 0x4000#16 0x4800#16).setReg 0 0x4000#16
    s.ReadyToFetch ∧ s.NoAbortFor 3 ∧ decode (s.memRead s.pc) = .trapPutsp ∧
    s.memRead (s.reg 0 + BitVec.ofNat 16 0) = 0x4800#16 ∧ (lowByte 0x4800#16 = 0#8 ∨ highByte 0x4800#16 = 0#8) :=
  ⟨⟨rfl, rfl, rfl⟩, noAbort_of_none rfl 3, by decide, by decide, by decide⟩

theorem witness_HaltEmitsTheNoticeAndStops :
    let s := fetching 0x3000#16 0xFF25#16
    s.ReadyToFetch ∧ s.NoAbortFor (s.noticeText.length + 2) ∧ decode (s.memRead s.pc) = .trapHalt :=
  ⟨⟨rfl, rfl, rfl⟩, noAbort_of_none rfl _, by decide⟩

theorem witness_ServicesWriteOnlyWhatTheyMay :
    (∃ t, step (serving 0xF023#16 (.inEcho 1#8)) = .next t ∧ (serving 0xF023#16 (.inEcho 1#8)).dstate ≠ .idle ∧
      t.reg 0 ≠ (serving 0xF023#16 (.inEcho 1#8)).reg 0) ∧
    (∃ t, step (serving 0xF025#16 (.haltNotice 2)) = .next t ∧ (serving 0xF025#16 (.haltNotice 2)).dstate ≠ .idle ∧
      t.estate ≠ (serving 0xF025#16 (.haltNotice 2)).estate) ∧
    (∃ t, step (fed [.endOfInput] (serving 0xF023#16 .inWait)) = .next t ∧
      (fed [.endOfInput] (serving 0xF023#16 .inWait)).dstate ≠ .idle ∧
      t.faultCause ≠ (fed [.endOfInput] (serving 0xF023#16 .inWait)).faultCause) :=
  ⟨next_of_view (by decide), next_of_view (by decide), next_of_view (by decide)⟩

theorem witness_OutputGrowsByAtMostOneByte :
    (∃ t, step (serving 0xF021#16 .outEmit) = .next t ∧ t.output = [0x00#8]) ∧
    (∃ t, step base = .next t ∧ base.dstate = .idle) := ⟨next_of_view (by decide), next_of_view (by decide)⟩

theorem witness_InputIsConsumedInOrder :
    ∃ t, step (fed [.byte 1#8, .endOfInput] (serving 0xF023#16 .inWait)) = .next t ∧
      t.consumed ≠ (fed [.byte 1#8, .endOfInput] (serving 0xF023#16 .inWait)).consumed := next_of_view (by decide)

theorem witness_IllegalOpcodesRaiseTheirFault :
    (0x8FFF#16).extractLsb' 12 4 = 0b1000#4 ∧ (0xDFFF#16).extractLsb' 12 4 = 0b1101#4 := by decide

theorem witness_IllegalWordsStopTheEngine :
    ((fetching 0x3000#16 0x8000#16).ReadyToFetch ∧ decode ((fetching 0x3000#16 0x8000#16).memRead 0x3000#16) = .rti) ∧
    ((fetching 0x3000#16 0xD000#16).ReadyToFetch ∧ decode ((fetching 0x3000#16 0xD000#16).memRead 0x3000#16) = .reserved) ∧
    ((fetching 0x3000#16 0xF01F#16).ReadyToFetch ∧ (0x1F#8).toNat < 0x20 ∧
      decode ((fetching 0x3000#16 0xF01F#16).memRead 0x3000#16) = .trap 0x1F#8) ∧
    ((fetching 0x3000#16 0xF026#16).ReadyToFetch ∧ 0x25 < (0x26#8).toNat ∧
      decode ((fetching 0x3000#16 0xF026#16).memRead 0x3000#16) = .trap 0x26#8) :=
  ⟨⟨ready_fetching _ _, by decide⟩, ⟨ready_fetching _ _, by decide⟩, ⟨ready_fetching _ _, by decide, by decide⟩,
    ⟨ready_fetching _ _, by decide, by decide⟩⟩

theorem witness_FaultsArePrecise :
    (∃ t, step (fetching 0x0000#16 0x8000#16) = .next t ∧ t.estate = .faulted) ∧
    (∃ t, step (fed [.endOfInput] (serving 0xF023#16 .inWait)) = .next t ∧ t.estate = .faulted) :=
  ⟨next_of_view (by decide), next_of_view (by decide)⟩

theorem witness_TerminalStatesHaveNoStep :
    (base.setEstate .halted).estate ≠ .running ∧ (base.setEstate .faulted).estate ≠ .running ∧
    (base.setEstate .aborted).estate ≠ .running := by decide

theorem witness_OnlyAnUnansweredWaitHasNoStep :
    (serving 0xF020#16 .getcWait).estate = .running ∧ (¬ ∃ t, step (serving 0xF020#16 .getcWait) = .next t) ∧
    base.estate = .running ∧ ∃ t, step base = .next t ∧ t.pc = 0x3001#16 :=
  ⟨rfl, fun ⟨t, h⟩ => by have : stop (step (serving 0xF020#16 .getcWait)) = none := by rw [h]; rfl
                         revert this; decide,
    rfl, next_of_view (by decide)⟩

theorem witness_HaltedIsReachedOnlyThroughHalt :
    ∃ t, step (serving 0xF025#16 (.haltNotice 2)) = .next t ∧ t.estate = .halted := next_of_view (by decide)

theorem witness_AbortChangesOnlyTheEngineState :
    ((base.scheduleAbort 0).estate = .running ∧ (base.scheduleAbort 0).abortAfter = some 0) ∧
    (let s := (serving 0xF020#16 .getcWait).scheduleAbort 1
     s.estate = .running ∧ s.abortAfter = some 1 ∧ (s.dstate = .getcWait ∨ s.dstate = .inWait) ∧ s.input = []) ∧
    (∃ t, step (base.scheduleAbort 1) = .next t ∧ (base.scheduleAbort 1).abortDue = false) :=
  ⟨⟨rfl, rfl⟩, ⟨rfl, rfl, .inl rfl, rfl⟩, next_of_view (by decide)⟩

theorem witness_AbortMayLandAfterAnyStep :
    base.abortAfter = none ∧ (∃ t, steps 0 base = .next t ∧ t.estate = .running) ∧
    (∃ t, steps 2 base = .next t ∧ t.estate = .running) := ⟨rfl, next_of_view (by decide), next_of_view (by decide)⟩

theorem witness_FaultRecordIsWrittenOnlyOnFault :
    ∃ t, step (fetching 0x3000#16 0xD000#16) = .next t ∧ t.faultCause ≠ (fetching 0x3000#16 0xD000#16).faultCause :=
  next_of_view (by decide)

theorem witness_StepRunsTheDecodedInstruction :
    let s := (fetching 0xFFFF#16 0x1642#16).scheduleAbort 1
    s.ReadyToFetch ∧ decode (s.memRead s.pc) = .addReg 3 1 2 := ⟨⟨rfl, rfl, rfl⟩, by decide⟩

theorem witness_ResetLeavesTheListedState :
    (∃ m, load (some [0xFF, 0xFF, 0x00, 0x01]) = .ok m) ∧ (∃ f, load (some [0x30]) = .error f) := ⟨⟨_, rfl⟩, ⟨_, rfl⟩⟩

/-- The last word that fits. -/
theorem witness_LoadedImageReadsBack : (0xFFFF#16).toNat + [0x0001#16].length ≤ 65536 := by decide

/-- An odd length, the first word that does not fit, and the last that does, as bytes (L4, L7, L6). -/
theorem witness_LoaderFailsExactlyOnBadStreams :
    [0x30#8].length % 2 = 1 ∧ 65536 < (0xFFFF#16).toNat + [0x0001#16, 0x0002#16].length ∧
    [0xFFFF#16, 0x0001#16].flatMap bytesOfWord = [0xFF, 0xFF, 0x00, 0x01] ∧
    (0xFFFF#16).toNat + [0x0001#16].length ≤ 65536 ∧ ∃ m, load (some [0xFF, 0xFF, 0x00, 0x01]) = .ok m :=
  ⟨by decide, by decide, by decide, by decide, _, rfl⟩

theorem witness_UnloadedEntryIsANoOp :
    (launch params (some [0x40, 0x00, 0xF0, 0x25]) = .ok (State.resetWith params ⟨[(0x4000, 0xF025#16)]⟩)) ∧
    (State.resetWith params ⟨[(0x4000, 0xF025#16)]⟩).memRead 0x3000#16 = 0x0000#16 ∧ params.abortAfter ≠ some 0 :=
  ⟨rfl, by decide, by decide⟩

/-- In the middle of PUTSP, with the high byte of the latched cell still to come. -/
def midPutsp : State := (serving 0xF024#16 (.putspHi 0x4000#16 0x6968#16)).memWrite 0x4000#16 0x6968#16

theorem witness_EveryStepKeepsTheInvariant :
    midPutsp.Inv ∧ ∃ t, step midPutsp = .next t ∧ t.dstate = .putspLo 0x4001#16 := by
  refine ⟨⟨by decide, ?_, ?_, ?_, ?_, ?_, ?_, ?_⟩, next_of_view (by decide)⟩
  · rintro (h | h) <;> exact absurd h (by decide)
  · exact fun _ => ⟨rfl, rfl, rfl⟩
  · exact fun h => absurd h (by decide)
  · intro svc h
    have : svc = .putsp := by cases svc <;> revert h <;> decide
    subst this
    exact ⟨by decide, by decide⟩
  · exact fun i h => absurd (show DState.putspHi 0x4000#16 0x6968#16 = .inPrompt i from h) (by simp)
  · exact fun i h => absurd (show DState.putspHi 0x4000#16 0x6968#16 = .haltNotice i from h) (by simp)
  · intro a c h
    have h : DState.putspHi 0x4000#16 0x6968#16 = .putspHi a c := h
    cases h
    exact ⟨by decide, by decide⟩

theorem witness_InvariantHoldsAfterReset :
    launch params (some [0x30, 0x00]) = .ok base := rfl

end Sys2Proof.Tests
end

/-! SUPPORT for 10_state.md. What instructions and service steps do to `pc`, `cond` and `ir`, read off the inversion lemmas of
Laws/Step.lean; which step is taken; and that nothing but BR depends on the flag (R24, R27, R28). -/

namespace Sys2Proof.Machine

/-! ### Words -/

/-- `condOf` is the flag-update rule of R27. -/
theorem flagFollows_condOf (v : Word) : FlagFollows v (condOf v) := by
  refine ⟨fun hz => if_pos hz, fun hz hn => ?_, fun hz hp => ?_⟩
  · rw [condOf, if_neg hz, if_pos hn]
  · rw [condOf, if_neg hz, hp]; rfl

/-- A number plus a sign-extended field, as a word, is their exact sum modulo 2^16 (R51, R84). -/
theorem aluAdd_ofNat_sext (k : Nat) {n : Nat} (f : BitVec n) :
    aluAdd (BitVec.ofNat 16 k) (sext f) = BitVec.ofInt 16 (k + f.toInt) := by
  rw [BitVec.ofInt_add, BitVec.ofInt_natCast]
  rfl

/-- The fetch's increment of `pc` is modulo 2^16 (R24). -/
theorem addr_succ_eq_ofNat (a : Word) : a + 1#16 = BitVec.ofNat 16 (a.toNat + 1) := by
  rw [BitVec.ofNat_add, BitVec.ofNat_toNat, BitVec.setWidth_eq]

/-- The PC-relative address after the fetch, from the address A of the fetch (R130). -/
theorem eaPcRelative_fetch (off : BitVec 9) (s : State) :
    eaPcRelative off s.fetch = BitVec.ofInt 16 (s.pc.toNat + 1 + off.toInt) := by
  rw [eaPcRelative, State.fetch_pc, addr_succ_eq_ofNat, aluAdd_ofNat_sext, Nat.cast_add_one]

/-! ### What an instruction does to `cond`, `ir` and `pc` -/

/-- `Dispatch` writes the dispatcher state, or the engine state and the record: not `pc` (R150). -/
@[simp] theorem dispatch_pc (code : BitVec 8) (s : State) : (dispatch code s).pc = s.pc := by
  rcases dispatch_cases code s with ⟨svc, -, h⟩ | ⟨-, h⟩ <;> simp [h]

@[simp] theorem dispatch_cond (code : BitVec 8) (s : State) : (dispatch code s).cond = s.cond := by
  rcases dispatch_cases code s with ⟨svc, -, h⟩ | ⟨-, h⟩ <;> simp [h]

@[simp] theorem dispatch_ir (code : BitVec 8) (s : State) : (dispatch code s).ir = s.ir := by
  rcases dispatch_cases code s with ⟨svc, -, h⟩ | ⟨-, h⟩ <;> simp [h]

/-- Each of the seven flag-setting instructions ends by writing DR and the flag from it (R28). -/
theorem exec_of_flagDest {i : Instr} {s t : State} {dr : Reg} (h : exec i s = .next t)
    (hdr : Instr.flagDest i = some dr) : ∃ v, t = s.writeDest dr v := by
  cases i <;> cases hdr <;> cases h <;> exact ⟨_, rfl⟩

/-- No other instruction writes the flag (R28). -/
theorem exec_cond_of_flagDest_none {i : Instr} {s t : State} (h : exec i s = .next t) (hnone : Instr.flagDest i = none) :
    t.cond = s.cond := by
  rcases exec_cases h with ⟨_, _, hdr, -⟩ | ⟨_, -, rfl⟩ | ⟨_, -, rfl⟩ | ⟨_, _, -, rfl⟩ | ⟨code, -, rfl⟩ | ⟨-, rfl⟩ | ⟨-, rfl⟩
  · exact absurd hdr (by simp [hnone])
  · rfl
  · rfl
  · rfl
  · exact dispatch_cond code s
  · rfl
  · rfl

/-- No instruction writes `ir`: only the fetch does (R30). -/
theorem exec_ir {i : Instr} {s t : State} (h : exec i s = .next t) : t.ir = s.ir := by
  rcases exec_cases h with ⟨_, _, -, rfl⟩ | ⟨_, -, rfl⟩ | ⟨_, -, rfl⟩ | ⟨_, _, -, rfl⟩ | ⟨code, -, rfl⟩ | ⟨-, rfl⟩ | ⟨-, rfl⟩
  · rfl
  · rfl
  · rfl
  · rfl
  · exact dispatch_ir code s
  · rfl
  · rfl

/-- BR leaves `pc` at A + 1 or moves it to its target (R120). -/
theorem execBr_pc {nzp : BitVec 3} {off : BitVec 9} {s t : State} (h : exec (.br nzp off) s = .next t) :
    t.pc = s.pc ∨ t.pc = eaPcRelative off s := by
  cases h
  rw [State.setPc_pc]
  split
  · exact .inr rfl
  · exact .inl rfl

/-- An instruction leaves `pc` at A + 1, or it is one of the four that write it; a BR goes to its target (R24). -/
theorem exec_pc_cases {i : Instr} {s t : State} (h : exec i s = .next t) :
    t.pc = s.pc ∨ (∃ nzp off, i = .br nzp off ∧ t.pc = eaPcRelative off s) ∨ (∃ base, i = .jmp base) ∨
    (∃ off, i = .jsr off) ∨ (∃ base, i = .jsrr base) := by
  rcases exec_cases h with ⟨_, _, -, rfl⟩ | ⟨_, ⟨nzp, off, rfl⟩ | hj, -⟩ | ⟨_, hl, -⟩ | ⟨_, _, -, rfl⟩ | ⟨code, -, rfl⟩ |
    ⟨-, rfl⟩ | ⟨-, rfl⟩
  · exact .inl rfl
  · exact (execBr_pc h).imp id fun ht => .inl ⟨nzp, off, rfl, ht⟩
  · exact .inr (.inr (.inl hj))
  · exact .inr (.inr (.inr hl))
  · exact .inl rfl
  · exact .inl (dispatch_pc code s)
  · exact .inl rfl
  · exact .inl rfl

/-! ### What a service step leaves alone -/

/-- A dispatcher step writes neither `pc` nor `cond` (R160). -/
theorem dispatcherStep_frame {s t : State} (hd : s.dstate ≠ .idle) (h : dispatcherStep s = .next t) :
    t.pc = s.pc ∧ t.cond = s.cond := by
  rcases dispatcherStep_cases hd h with ⟨_, _, -, -, rfl⟩ | ⟨_, -, -, rfl⟩ | ⟨-, rfl⟩ | ⟨_, -, -, rfl⟩ | ⟨_, -, -, rfl⟩ |
    ⟨_, _, -, -, rfl⟩ | ⟨_, -, -, rfl⟩ | ⟨_, _, -, -, rfl⟩ | ⟨_, -, rfl⟩ | ⟨_, -, -, rfl⟩ | ⟨_, -, -, rfl⟩ |
    ⟨_, _, -, -, rfl⟩ | ⟨_, _, -, -, rfl⟩ | ⟨_, _, -, -, rfl⟩ | ⟨_, -, -, rfl⟩
  all_goals exact ⟨rfl, rfl⟩

/-- A step taken during a service, the abort included, writes neither `pc` nor `cond` (R160, R204). -/
theorem step_service_frame {s t : State} (hd : s.dstate ≠ .idle) (h : step s = .next t) : t.pc = s.pc ∧ t.cond = s.cond := by
  obtain ⟨-, ⟨-, rfl⟩ | ⟨-, hidle, -⟩ | ⟨-, -, hs⟩⟩ := step_cases h
  · exact ⟨rfl, rfl⟩
  · exact absurd hidle hd
  · exact dispatcherStep_frame (s := s.passBoundary) hd hs

/-! ### Which step is taken (R246) -/

theorem step_of_abortDue {s : State} (he : s.estate = .running) (ha : s.abortDue = true) : step s = .next s.takeAbort := by
  simp [step, he, runningStep, ha]

theorem step_of_fetch {s : State} (h : s.ReadyToFetch) : step s = exec (decode (s.memRead s.pc)) s.passBoundary.fetch := by
  obtain ⟨he, hd, ha⟩ := h
  simp [step, he, runningStep, ha, hd, instructionStep]

theorem step_of_service {s : State} (he : s.estate = .running) (ha : s.abortDue = false) (hd : s.dstate ≠ .idle) :
    step s = dispatcherStep s.passBoundary := by
  simp [step, he, runningStep, ha, hd]

/-! ### Steps from two states that differ in the flag alone -/

theorem dispatch_setCond (code : BitVec 8) (s : State) (c : Cond) :
    dispatch code (s.setCond c) = (dispatch code s).setCond c := by
  unfold dispatch
  cases serviceOf code with
  | none => rfl
  | some svc => cases svc <;> rfl

/-- BR apart, an instruction run from another flag does the same, and leaves that flag unless it sets the flag itself (R28). -/
theorem exec_setCond {i : Instr} {s t : State} (c : Cond) (hbr : ∀ nzp off, i ≠ .br nzp off) (h : exec i s = .next t) :
    exec i (s.setCond c) = .next (t.setCond (if Instr.flagDest i = none then c else t.cond)) := by
  cases i <;> cases h
  case br nzp off => exact absurd rfl (hbr nzp off)
  case addReg | addImm | andReg | andImm | notOp | ld | ldi | ldr | lea => rfl
  case jmp | jsr | jsrr | st | sti | str | rti | reserved => rfl
  case trap | trapGetc | trapOut | trapPuts | trapIn | trapPutsp | trapHalt =>
    exact congrArg Host.Outcome.next (dispatch_setCond _ s c)

/-- `f` applied to the next state; a stop stays as it is. -/
def onNext (f : State → State) : Result → Result
  | .next s => .next (f s)
  | .fault r => .fault r
  | .refused r => .refused r

theorem State.receive_setCond (s : State) (c : Cond) :
    (s.setCond c).receive = s.receive.map (Prod.map id (·.setCond c)) := by
  unfold State.receive
  rw [State.setCond_input]
  cases s.input with
  | nil => rfl
  | cons d rest => cases d <;> rfl

/-- Every row of the dispatcher does the same from another flag, and leaves that flag (R151, R160). -/
theorem dispatcherStep_setCond (s : State) (c : Cond) :
    dispatcherStep (s.setCond c) = onNext (·.setCond c) (dispatcherStep s) := by
  unfold dispatcherStep
  rw [State.setCond_dstate]
  cases s.dstate with
  | idle | outEmit | inEcho => rfl
  | getcWait =>
    simp only [stepGetcWait, State.receive_setCond]
    obtain _ | ⟨_ | _, u⟩ := s.receive <;> rfl
  | inWait =>
    simp only [stepInWait, State.receive_setCond]
    obtain _ | ⟨_ | _, u⟩ := s.receive <;> rfl
  | putsScan | putspLo | putspHi =>
    simp only [stepPutsScan, stepPutspLo, stepPutspHi, apply_ite (onNext _)]
    rfl
  | inPrompt i =>
    simp only [stepInPrompt, State.setCond_promptText]
    cases s.promptText[i]? <;> rfl
  | haltNotice i =>
    simp only [stepHaltNotice, State.setCond_noticeText]
    cases s.noticeText[i]? <;> rfl

/-- A step taken during a service, the abort included, does not depend on the flag (R28). -/
theorem step_service_setCond {s t : State} (c : Cond) (hd : s.dstate ≠ .idle) (h : step s = .next t) :
    step (s.setCond c) = .next (t.setCond c) := by
  obtain ⟨he, ⟨ha, rfl⟩ | ⟨-, hidle, -⟩ | ⟨ha, -, hs⟩⟩ := step_cases h
  · exact step_of_abortDue (s := s.setCond c) he ha
  · exact absurd hidle hd
  · calc step (s.setCond c) = dispatcherStep (s.passBoundary.setCond c) := step_of_service (s := s.setCond c) he ha hd
      _ = .next (t.setCond c) := by rw [dispatcherStep_setCond, hs]; rfl

/-! ### The settled statements -/

/-- Settles O8: `condOf` is the rule, and a flag-setting instruction ends in `writeDest`. -/
theorem setccFollowsTheWord : Obligations.SetccFollowsTheWord := by
  constructor
  · intro s v
    exact ⟨flagFollows_condOf v, rfl, fun _ => rfl, fun _ => rfl,
      rfl, ⟨rfl, rfl⟩, ⟨rfl, rfl, rfl⟩, ⟨rfl, rfl, rfl⟩, ⟨rfl, rfl⟩, rfl⟩
  · intro i s t dr h hdr
    obtain ⟨v, rfl⟩ := exec_of_flagDest h hdr
    simp

/-- Settles O9: who writes the flag by `exec_of_flagDest` and its counterpart, who reads it by running every other instruction and
every service step from another flag. -/
theorem onlySevenInstructionsSetTheFlag : Obligations.OnlySevenInstructionsSetTheFlag := by
  refine ⟨fun i s t h => ⟨fun dr hdr => ?_, exec_cond_of_flagDest_none h⟩,
    fun s t c hd h => ⟨(step_service_frame hd h).2, step_service_setCond c hd h⟩, fun i s t c => exec_setCond c⟩
  obtain ⟨v, rfl⟩ := exec_of_flagDest h hdr
  simpa using flagFollows_condOf v

/-- Settles O27: the fetch sets `ir` and A + 1, and `exec_pc_cases` says which instructions write `pc` after it. -/
theorem onlyFourInstructionsMovePc : Obligations.OnlyFourInstructionsMovePc := by
  refine ⟨fun s t hready h => ?_, fun s t hd h => (step_service_frame hd h).1⟩
  have hexec : exec (decode (s.memRead s.pc)) s.passBoundary.fetch = .next t := (step_of_fetch hready).symm.trans h
  refine ⟨exec_ir hexec, ?_⟩
  obtain hpc | ⟨nzp, off, hi, hpc⟩ | hjump := exec_pc_cases hexec
  · exact .inl (hpc.trans (addr_succ_eq_ofNat s.pc))
  · exact .inr (.inl ⟨nzp, off, hi, hpc.trans (eaPcRelative_fetch off s.passBoundary)⟩)
  · exact .inr (.inr hjump)

end Sys2Proof.Machine

/-! SUPPORT for 20_memory.md. What a block write leaves in memory, and what the loader makes of a stream that is the bytes of an
origin and words (R59, R60). -/

namespace Sys2Proof.Machine

/-! ### Reading a block back -/

/-- A block write leaves the cells outside the block alone. -/
theorem Memory.get_store_of_outside (m : Memory) {a b : Nat} (ws : List Word) (h : b < a ∨ a + ws.length ≤ b) :
    (m.store a ws).get b = m.get b := by
  induction ws generalizing m a with
  | nil => rfl
  | cons w ws ih =>
    rw [List.length_cons] at h
    calc ((m.set a w).store (a + 1) ws).get b = (m.set a w).get b := ih (m.set a w) (by omega)
      _ = m.get b := m.get_set_ne w (by omega)

/-- Each cell of a block written holds its word: the writes after it go to higher addresses. -/
theorem Memory.get_store_add (m : Memory) (a : Nat) {ws : List Word} {k : Nat} (h : k < ws.length) :
    (m.store a ws).get (a + k) = ws[k] := by
  induction ws generalizing m a k with
  | nil => exact absurd h (Nat.not_lt_zero k)
  | cons w ws ih =>
    cases k with
    | zero =>
      calc ((m.set a w).store (a + 1) ws).get a = (m.set a w).get a :=
            Memory.get_store_of_outside _ ws (.inl (Nat.lt_succ_self a))
        _ = w := m.get_set_self a w
    | succ k =>
      have hk : k < ws.length := Nat.lt_of_succ_lt_succ h
      have haddr : a + (k + 1) = a + 1 + k := by omega
      calc (m.store a (w :: ws)).get (a + (k + 1)) = ((m.set a w).store (a + 1) ws).get (a + 1 + k) :=
            congrArg _ haddr
        _ = ws[k] := ih (m.set a w) (a + 1) hk

/-! ### The stream of an image -/

/-- Words survive the image's byte order (R54, R60). -/
@[simp] theorem wordsOfBytes_flatMap_bytesOfWord (ws : List Word) : wordsOfBytes (ws.flatMap bytesOfWord) = ws := by
  induction ws with
  | nil => rfl
  | cons w ws ih => exact congrArg₂ List.cons (wordOfBytes_bytesOfWord w) ih

theorem length_flatMap_bytesOfWord (ws : List Word) : (ws.flatMap bytesOfWord).length = 2 * ws.length := by
  simp [bytesOfWord, List.length_flatMap, Nat.mul_comm]

/-- On the bytes of an origin and words the loader is `placeImage`, whether or not the words fit (R60). -/
theorem load_flatMap_bytesOfWord (origin : Word) (ws : List Word) :
    load (some ((origin :: ws).flatMap bytesOfWord)) = placeImage origin ws := by
  have heven : ¬ (ws.flatMap bytesOfWord).length % 2 = 1 := by
    rw [length_flatMap_bytesOfWord]
    omega
  calc load (some ((origin :: ws).flatMap bytesOfWord))
      = placeImage (wordOfBytes (origin.extractLsb' 8 8) (origin.extractLsb' 0 8))
          (wordsOfBytes (ws.flatMap bytesOfWord)) := if_neg heven
    _ = placeImage origin ws := by rw [wordOfBytes_bytesOfWord, wordsOfBytes_flatMap_bytesOfWord]

/-- Words that fit are stored over zero memory from the origin on (R59, R60). -/
theorem placeImage_of_fits {origin : Word} {ws : List Word} (h : origin.toNat + ws.length ≤ Config.memoryWords) :
    placeImage origin ws = .ok (Memory.empty.store origin.toNat ws) :=
  if_neg (by omega)

/-! ### The settled statement -/

/-- Settles O56: the memory loaded is a block write over zero memory, which reads back inside the block and as zero outside. -/
theorem loadedImageReadsBack : Obligations.LoadedImageReadsBack := by
  intro origin ws hfits
  have hload : load (some ((origin :: ws).flatMap bytesOfWord)) = .ok (Memory.empty.store origin.toNat ws) :=
    (load_flatMap_bytesOfWord origin ws).trans (placeImage_of_fits hfits)
  exact ⟨_, hload, fun _ hk => Memory.get_store_add _ _ hk, fun _ ha => Memory.get_store_of_outside _ ws ha⟩

end Sys2Proof.Machine

/-! SUPPORT for 30_encoding.md. Sign extension of a field no wider than a word (R84). -/

namespace Sys2Proof.Machine

/-- Bit by bit, a sign-extended field is the field and above it the field's sign bit (R84). -/
theorem getLsbD_sext {n : Nat} (f : BitVec n) {i : Nat} (hi : i < 16) :
    (sext f).getLsbD i = if i < n then f.getLsbD i else f.getLsbD (n - 1) := by
  calc (sext f).getLsbD i = (decide (i < 16) && if i < n then f.getLsbD i else f.msb) := BitVec.getLsbD_signExtend f
    _ = if i < n then f.getLsbD i else f.getLsbD (n - 1) := by
      rw [decide_eq_true hi, Bool.true_and, BitVec.msb_eq_getLsbD_last]

/-- A word is wide enough to hold the two's-complement value of a field of at most 16 bits (R84). -/
theorem toInt_sext {n : Nat} (f : BitVec n) (hn : n ≤ 16) : (sext f).toInt = f.toInt :=
  BitVec.toInt_signExtend_of_le hn

/-- Settles O7: both properties hold of a field of any width up to 16, and the four widths are such. -/
theorem signExtensionReplicatesTheSignBit : Obligations.SignExtensionReplicatesTheSignBit := by
  intro n hn f
  have hwidth : n ≤ 16 := (by decide : ∀ m ∈ [5, 6, 9, 11], m ≤ 16) n hn
  exact ⟨fun _ hi => getLsbD_sext f hi, toInt_sext f hwidth⟩

end Sys2Proof.Machine

/-! SUPPORT for 41_control.md. Which words are a JSR, and its target as an exact sum (R122). -/

namespace Sys2Proof.Machine

/-- A word plus a sign-extended field is their exact sum modulo 2^16 (R51, R84). -/
theorem aluAdd_sext (a : Word) {n : Nat} (f : BitVec n) : aluAdd a (sext f) = BitVec.ofInt 16 (a.toNat + f.toInt) := by
  rw [← aluAdd_ofNat_sext, BitVec.ofNat_toNat, BitVec.setWidth_eq]

/-- Opcode 4 with the mode bit set is JSR, whatever its offset (R82, R83). -/
theorem decode_of_jsrMode {w : Word} (hop : opcodeField w = 0b0100#4) (hmode : jsrModeFlag w = true) :
    decode w = .jsr (offset11Field w) := by
  have hjsr : opcodeOf w = .jsr := Laws.EncodeOpcode.of_field hop
  rw [decode, hjsr]
  exact if_pos hmode

/-- JSR links the `pc` it runs with and then moves `pc` (R122). -/
theorem exec_jsr (off : BitVec 11) (s : State) :
    exec (.jsr off) s = .next ((s.setReg linkReg s.pc).setPc (aluAdd s.pc (sext off))) := rfl

/-- Settles O25: the word's opcode and mode bit select JSR, and its next state is a write of R7 followed by one of `pc`. -/
theorem jsrLinksAndJumps : Obligations.JsrLinksAndJumps := by
  refine ⟨fun w hop hmode => decode_of_jsrMode hop hmode, fun s off => ⟨_, exec_jsr off s, ?_⟩⟩
  have hlink : (s.setReg linkReg s.pc).reg 7 = s.pc := State.reg_setReg_self s linkReg s.pc
  have hothers : s.SameRegsBut 7 (s.setReg linkReg s.pc) := fun _ hr => State.reg_setReg_ne s s.pc hr
  exact ⟨hlink, aluAdd_sext s.pc off, hothers, rfl, fun _ => rfl,
    rfl, ⟨rfl, rfl⟩, ⟨rfl, rfl, rfl⟩, ⟨rfl, rfl, rfl⟩, ⟨rfl, rfl⟩, rfl⟩

end Sys2Proof.Machine

/-! SUPPORT for 42_load_store.md. Which words are a load, a store or a LEA, what each does in one equation, and that `writeDest` and
`memWrite` have exactly the effects that `WritesDest` and `WritesCell` name (R131 to R137). -/

namespace Sys2Proof.Machine

/-! ### The decoder's equation for each operation (R82, R83) -/

theorem decode_of_ld {w : Word} (h : opcodeOf w = .ld) : decode w = .ld (drField w) (offset9Field w) := by
  rw [decode, h]

theorem decode_of_ldi {w : Word} (h : opcodeOf w = .ldi) : decode w = .ldi (drField w) (offset9Field w) := by
  rw [decode, h]

theorem decode_of_ldr {w : Word} (h : opcodeOf w = .ldr) : decode w = .ldr (drField w) (sr1Field w) (offset6Field w) := by
  rw [decode, h]

theorem decode_of_lea {w : Word} (h : opcodeOf w = .lea) : decode w = .lea (drField w) (offset9Field w) := by
  rw [decode, h]

theorem decode_of_st {w : Word} (h : opcodeOf w = .st) : decode w = .st (drField w) (offset9Field w) := by
  rw [decode, h]

theorem decode_of_sti {w : Word} (h : opcodeOf w = .sti) : decode w = .sti (drField w) (offset9Field w) := by
  rw [decode, h]

theorem decode_of_str {w : Word} (h : opcodeOf w = .str) : decode w = .str (drField w) (sr1Field w) (offset6Field w) := by
  rw [decode, h]

/-! ### What each instruction does, in one equation -/

/-- LD writes the word at the PC-relative address (R131). -/
theorem exec_ld (dr : Reg) (off : BitVec 9) (s : State) :
    exec (.ld dr off) s = .next (s.writeDest dr (s.memRead (eaPcRelative off s))) := rfl

/-- LDI writes the word at the address the pointer cell holds (R132). -/
theorem exec_ldi (dr : Reg) (off : BitVec 9) (s : State) :
    exec (.ldi dr off) s = .next (s.writeDest dr (s.memRead (eaIndirect off s))) := rfl

/-- LDR's address is computed before DR is written (R133). -/
theorem exec_ldr (dr base : Reg) (off : BitVec 6) (s : State) :
    exec (.ldr dr base off) s = .next (s.writeDest dr (s.memRead (eaBaseOffset base off s))) := rfl

/-- LEA writes the address itself (R134). -/
theorem exec_lea (dr : Reg) (off : BitVec 9) (s : State) :
    exec (.lea dr off) s = .next (s.writeDest dr (eaPcRelative off s)) := rfl

/-! ### The two effects -/

/-- `writeDest` writes DR and the flag from the word, and nothing else (R27). -/
theorem writesDest_writeDest (dr : Reg) (v : Word) (s : State) : WritesDest dr v s (s.writeDest dr v) := by
  have hothers : s.SameRegsBut dr (s.writeDest dr v) := fun _ hr => State.reg_writeDest_ne s v hr
  exact ⟨State.reg_writeDest_self s dr v, flagFollows_condOf v, hothers, rfl, fun _ => rfl,
    rfl, ⟨rfl, rfl⟩, ⟨rfl, rfl, rfl⟩, ⟨rfl, rfl, rfl⟩, ⟨rfl, rfl⟩, rfl⟩

/-- `memWrite` writes one cell and nothing else (R52). -/
theorem writesCell_memWrite (a v : Word) (s : State) : WritesCell a v s (s.memWrite a v) := by
  have hothers : s.SameMemBut a (s.memWrite a v) := fun _ ha => State.memRead_memWrite_ne s v ha
  exact ⟨State.memRead_memWrite_self s a v, hothers, fun _ => rfl, rfl, rfl,
    rfl, ⟨rfl, rfl⟩, ⟨rfl, rfl, rfl⟩, ⟨rfl, rfl, rfl⟩, ⟨rfl, rfl⟩, rfl⟩

/-- A storing instruction completes, with its source register in the one cell at its address (R135 to R137). -/
theorem exec_store_writesCell {i : Instr} {s : State} {sr : Reg} {a : Word} (hr : Instr.storeSource i = some sr)
    (ha : Instr.storeAddress i s = some a) : ∃ t, exec i s = .next t ∧ WritesCell a (s.reg sr) s t :=
  ⟨_, exec_of_store hr ha, writesCell_memWrite a (s.reg sr) s⟩

/-- At offset 0 the PC-relative address is `pc` itself, the cell of the next fetch (R135). -/
theorem eaPcRelative_zero (s : State) : eaPcRelative 0#9 s = s.pc := BitVec.add_zero s.pc

/-! ### The settled statements -/

/-- Settles O14: LD's equation, with `writeDest`'s effect on DR, the flag and the rest. -/
theorem ldLoadsPcRelative : Obligations.LdLoadsPcRelative :=
  ⟨fun _ hop => decode_of_ld (Laws.EncodeOpcode.of_field hop),
    fun s dr off => ⟨_, exec_ld dr off s, writesDest_writeDest dr _ s⟩⟩

/-- Settles O15: LDI's equation, with `writeDest`'s effect; the pointer and the data are both read from the state before. -/
theorem ldiLoadsThroughThePointer : Obligations.LdiLoadsThroughThePointer :=
  ⟨fun _ hop => decode_of_ldi (Laws.EncodeOpcode.of_field hop),
    fun s dr off => ⟨_, exec_ldi dr off s, writesDest_writeDest dr _ s⟩⟩

/-- Settles O16: LDR's equation, with `writeDest`'s effect; DR may be BaseR. -/
theorem ldrLoadsBasePlusOffset : Obligations.LdrLoadsBasePlusOffset :=
  ⟨fun _ hop => decode_of_ldr (Laws.EncodeOpcode.of_field hop),
    fun s dr base off => ⟨_, exec_ldr dr base off s, writesDest_writeDest dr _ s⟩⟩

/-- Settles O17: LEA's equation, its address as an exact sum; the address is of `pc` alone, so another memory gives the same DR and
flag. -/
theorem leaWritesTheAddress : Obligations.LeaWritesTheAddress := by
  refine ⟨fun _ hop => decode_of_lea (Laws.EncodeOpcode.of_field hop),
    fun s dr off => ⟨_, exec_lea dr off s, ?_⟩,
    fun s t m dr off h => ?_⟩
  · rw [← aluAdd_sext]
    exact writesDest_writeDest dr _ s
  · cases h
    exact ⟨_, exec_lea dr off { s with mem := m }, rfl, rfl⟩

/-- Settles O18: ST is a store at the PC-relative address, which at offset 0 is `pc`. -/
theorem stStoresPcRelative : Obligations.StStoresPcRelative := by
  refine ⟨fun _ hop => decode_of_st (Laws.EncodeOpcode.of_field hop),
    fun _ _ _ => exec_store_writesCell rfl rfl, fun _ _ => rfl, fun s t sr h => ?_⟩
  cases h
  calc (s.memWrite (eaPcRelative 0#9 s) (s.reg sr)).memRead s.pc = (s.memWrite s.pc (s.reg sr)).memRead s.pc := by
        rw [eaPcRelative_zero]
    _ = s.reg sr := State.memRead_memWrite_self s s.pc (s.reg sr)

/-- Settles O19: STI is a store at the address its pointer cell holds before the store. -/
theorem stiStoresThroughThePointer : Obligations.StiStoresThroughThePointer :=
  ⟨fun _ hop => decode_of_sti (Laws.EncodeOpcode.of_field hop),
    fun _ _ _ => exec_store_writesCell rfl rfl, fun _ _ => rfl⟩

/-- Settles O20: STR is a store at base plus offset; SR may be BaseR. -/
theorem strStoresBasePlusOffset : Obligations.StrStoresBasePlusOffset :=
  ⟨fun _ hop => decode_of_str (Laws.EncodeOpcode.of_field hop),
    fun _ _ _ _ => exec_store_writesCell rfl rfl, fun _ _ _ => rfl⟩

end Sys2Proof.Machine

/-! SUPPORT for 70_reset_and_hazards.md. The state an instruction executes in, from the state about to fetch (R244). -/

namespace Sys2Proof.Machine

/-- `t` is `s` after the fetch, the abort countdown apart: `ir` and `pc` written, and nothing else. -/
def Fetched (s t : State) : Prop :=
  t.ir = s.memRead s.pc ∧ t.pc = BitVec.ofNat 16 (s.pc.toNat + 1) ∧ t.cond = s.cond ∧
  s.SameRegs t ∧ s.SameMem t ∧ s.SameEngine t ∧ s.SameRecord t ∧ s.SameStreams t ∧ s.SameTexts t

/-- Counting the boundary down changes nothing that `Fetched` names, and the fetch writes just `ir` and `pc`. -/
theorem fetched_passBoundary_fetch (s : State) : Fetched s s.passBoundary.fetch :=
  ⟨rfl, addr_succ_eq_ofNat s.pc, rfl, fun _ => rfl, fun _ => rfl, ⟨rfl, rfl⟩, ⟨rfl, rfl, rfl⟩, ⟨rfl, rfl, rfl⟩, ⟨rfl, rfl⟩⟩

/-- Settles O53: a step at a fetch executes the decoded word in the state that the boundary and the fetch leave. -/
theorem stepRunsTheDecodedInstruction : Obligations.StepRunsTheDecodedInstruction := by
  intro s i hready hdecode
  have hstep : step s = exec i s.passBoundary.fetch := hdecode ▸ step_of_fetch hready
  exact ⟨_, hstep, fetched_passBoundary_fetch s⟩

end Sys2Proof.Machine

/-! SUPPORT for 30_encoding.md. The decoder's remaining equations, its entry in the opcode map, and the fields of an encoded word
(R81 to R91). -/

namespace Sys2Proof

/-! ### The decoder's equation for each operation (R82, R83) -/

theorem decode_of_br {w : Word} (h : opcodeOf w = .br) : decode w = .br (nzpField w) (offset9Field w) := by
  rw [decode, h]

theorem decode_of_add {w : Word} (h : opcodeOf w = .add) :
    decode w = if immFlag w then .addImm (drField w) (sr1Field w) (imm5Field w)
      else .addReg (drField w) (sr1Field w) (sr2Field w) := by
  rw [decode, h]

theorem decode_of_and {w : Word} (h : opcodeOf w = .and) :
    decode w = if immFlag w then .andImm (drField w) (sr1Field w) (imm5Field w)
      else .andReg (drField w) (sr1Field w) (sr2Field w) := by
  rw [decode, h]

theorem decode_of_jsr {w : Word} (h : opcodeOf w = .jsr) :
    decode w = if jsrModeFlag w then .jsr (offset11Field w) else .jsrr (sr1Field w) := by
  rw [decode, h]

theorem decode_of_not {w : Word} (h : opcodeOf w = .not) : decode w = .notOp (drField w) (sr1Field w) := by
  rw [decode, h]

theorem decode_of_jmp {w : Word} (h : opcodeOf w = .jmp) : decode w = .jmp (sr1Field w) := by
  rw [decode, h]

theorem decode_of_rti {w : Word} (h : opcodeOf w = .rti) : decode w = .rti := by
  rw [decode, h]

theorem decode_of_reserved {w : Word} (h : opcodeOf w = .reserved) : decode w = .reserved := by
  rw [decode, h]

theorem decode_of_trap {w : Word} (h : opcodeOf w = .trap) : decode w = decodeTrap (trapvectField w) := by
  rw [decode, h]

/-! ### Trap codes (R89, R152) -/

/-- Decoding a trap code and reading it back. -/
theorem trapCode_decodeTrap (code : BitVec 8) : Machine.Instr.trapCode (decodeTrap code) = some code := by
  unfold decodeTrap serviceOf
  split_ifs <;> simp_all [Machine.Instr.trapCode]

theorem entry_decodeTrap (code : BitVec 8) : Laws.EncodeOpcode.entry (decodeTrap code) = .trap := by
  unfold decodeTrap
  split <;> rfl

/-! ### Encode, then decode -/

theorem opcodeOf_encode (i : Instr) : opcodeOf (encode i) = Laws.EncodeOpcode.entry i := by
  cases i with
  | br nzp off => exact Laws.EncodeOpcode.br nzp off
  | addReg dr sr1 sr2 => exact Laws.EncodeOpcode.addReg dr sr1 sr2
  | addImm dr sr1 imm => exact Laws.EncodeOpcode.addImm dr sr1 imm
  | ld dr off => exact Laws.EncodeOpcode.ld dr off
  | st sr off => exact Laws.EncodeOpcode.st sr off
  | jsr off => exact Laws.EncodeOpcode.jsr off
  | jsrr base => exact Laws.EncodeOpcode.jsrr base
  | andReg dr sr1 sr2 => exact Laws.EncodeOpcode.andReg dr sr1 sr2
  | andImm dr sr1 imm => exact Laws.EncodeOpcode.andImm dr sr1 imm
  | ldr dr base off => exact Laws.EncodeOpcode.ldr dr base off
  | str sr base off => exact Laws.EncodeOpcode.str sr base off
  | notOp dr sr => exact Laws.EncodeOpcode.notOp dr sr
  | ldi dr off => exact Laws.EncodeOpcode.ldi dr off
  | sti sr off => exact Laws.EncodeOpcode.sti sr off
  | jmp base => exact Laws.EncodeOpcode.jmp base
  | lea dr off => exact Laws.EncodeOpcode.lea dr off
  | trap code => exact Laws.EncodeOpcode.trap code
  | rti | reserved | trapGetc | trapOut | trapPuts | trapIn | trapPutsp | trapHalt => rfl

/-- A bit inside the last part. -/
theorem getLsbD_append_low {n m i : Nat} (a : BitVec n) (b : BitVec m) (h : i < m) :
    (a ++ b).getLsbD i = b.getLsbD i := by
  rw [BitVec.getLsbD_append, if_pos h]

/-- A bit above the last part. -/
theorem getLsbD_append_high {n m i : Nat} (a : BitVec n) (b : BitVec m) (h : m ≤ i) :
    (a ++ b).getLsbD i = a.getLsbD (i - m) := by
  rw [BitVec.getLsbD_append, if_neg (Nat.not_lt.2 h)]

/-- The opcode entry chooses the arm of the decoder, and every field read there is the one `encode` put in its place. -/
theorem decode_encode {i : Instr} (hi : i.WellFormed) : decode (encode i) = i := by
  have hop : opcodeOf (encode i) = Laws.EncodeOpcode.entry i := opcodeOf_encode i
  cases i
  all_goals rw [decode, hop]
  case rti | reserved | trapGetc | trapOut | trapPuts | trapIn | trapPutsp | trapHalt => rfl
  case br | ld | ldi | lea | st | sti | ldr | str | jmp | notOp =>
    simp (disch := omega) only [Laws.EncodeOpcode.entry, nzpField, drField, sr1Field, offset9Field, offset6Field, encode,
      extract_append_high, extract_append_low, Nat.reduceSub, extract_whole, toFin_regBits]
  case addReg | addImm | andReg | andImm | jsr | jsrr =>
    simp (disch := omega) only [Laws.EncodeOpcode.entry, drField, sr1Field, sr2Field, imm5Field, offset11Field, immFlag,
      jsrModeFlag, encode, getLsbD_append_high, getLsbD_append_low, extract_append_high, extract_append_low, Nat.reduceSub,
      extract_whole, toFin_regBits]
    rfl
  case trap code =>
    have hnone : serviceOf code = none := by
      rw [serviceOf_eq_none_iff]
      simpa [Instr.WellFormed, Instr.wellFormed] using hi
    have hfield : trapvectField (encode (.trap code)) = code :=
      (extract_append_low 0 8 8 8 (0b1111#4 ++ 0b0000#4) code (by omega)).trans (extract_whole 8 code)
    show decodeTrap (trapvectField (encode (.trap code))) = .trap code
    rw [hfield, decodeTrap, hnone]

/-! ### The entry of a decoded word -/

theorem entry_decode (w : Word) : Laws.EncodeOpcode.entry (decode w) = opcodeOf w := by
  cases hop : opcodeOf w
  case add => rw [decode_of_add hop]; split <;> rfl
  case and => rw [decode_of_and hop]; split <;> rfl
  case jsr => rw [decode_of_jsr hop]; split <;> rfl
  case trap => rw [decode_of_trap hop]; exact entry_decodeTrap _
  all_goals rw [decode, hop]; rfl

/-- The TRAP forms are those that hand a code on. -/
theorem entry_eq_trap_iff (i : Instr) : Laws.EncodeOpcode.entry i = .trap ↔ (Machine.Instr.trapCode i).isSome = true := by
  cases i <;> simp [Laws.EncodeOpcode.entry, Machine.Instr.trapCode]

/-! ### The opcode map -/

/-- The opcode map has no entry twice (R83). -/
theorem opcodeTable_get_inj (a b : BitVec 4) : opcodeTable.get a.toFin = opcodeTable.get b.toFin ↔ a = b := by
  revert a b
  decide

/-! ### Fields and masks -/

/-- The bits of a field, given as its lowest bit and its width. -/
def fieldMask (f : Nat × Nat) : Word := (BitVec.allOnes f.2).setWidth 16 <<< f.1

/-- The bits of several fields. -/
def fieldsMask (fs : List (Nat × Nat)) : Word := fs.foldr (fun f m => fieldMask f ||| m) 0#16

/-- Words that agree in a field agree under its mask. -/
theorem and_fieldMask {f : Nat × Nat} {v w : Word} (h : v.extractLsb' f.1 f.2 = w.extractLsb' f.1 f.2) :
    v &&& fieldMask f = w &&& fieldMask f := by
  apply BitVec.eq_of_getLsbD_eq
  intro i hi
  have hbit := congrArg (·.getLsbD (i - f.1)) h
  simp only [BitVec.getLsbD_extractLsb'] at hbit
  simp only [fieldMask, BitVec.getLsbD_and, BitVec.getLsbD_shiftLeft, BitVec.getLsbD_setWidth, BitVec.getLsbD_allOnes]
  by_cases hk : f.1 ≤ i ∧ i - f.1 < f.2
  · obtain ⟨hle, hlt⟩ := hk
    rw [decide_eq_true hlt, Bool.true_and, Bool.true_and, Nat.add_sub_cancel' hle] at hbit
    rw [hbit]
  · have : decide (i < f.1) = true ∨ decide (i - f.1 < f.2) = false := by simp; omega
    rcases this with h' | h' <;> simp [h']

/-- The two words agree in each of some fields. -/
def SameFields (fs : List (Nat × Nat)) (v w : Word) : Prop := ∀ f ∈ fs, v.extractLsb' f.1 f.2 = w.extractLsb' f.1 f.2

/-- Words that agree in each of some fields agree under their mask. -/
theorem and_fieldsMask {fs : List (Nat × Nat)} {v w : Word} (h : SameFields fs v w) :
    v &&& fieldsMask fs = w &&& fieldsMask fs := by
  induction fs with
  | nil => simp [fieldsMask]
  | cons f fs ih =>
    have hf := and_fieldMask (h f List.mem_cons_self)
    have hfs := ih fun g hg => h g (List.mem_cons_of_mem f hg)
    show v &&& (fieldMask f ||| fieldsMask fs) = w &&& (fieldMask f ||| fieldsMask fs)
    rw [BitVec.and_or_distrib_left, hf, hfs, ← BitVec.and_or_distrib_left]

/-- Words agree in some fields exactly when they agree under those fields' mask, which is all ones in each of them. -/
theorem sameFields_iff_and {fs : List (Nat × Nat)} {v w : Word}
    (hones : ∀ f ∈ fs, (fieldsMask fs).extractLsb' f.1 f.2 = BitVec.allOnes f.2) :
    SameFields fs v w ↔ v &&& fieldsMask fs = w &&& fieldsMask fs := by
  refine ⟨and_fieldsMask, fun h f hf => ?_⟩
  have hcut := congrArg (BitVec.extractLsb' f.1 f.2) h
  rwa [BitVec.extractLsb'_and, BitVec.extractLsb'_and, hones f hf, BitVec.and_allOnes, BitVec.and_allOnes] at hcut

/-! ### What the decoder looks at -/

/-- The fields of an instruction's format, its mode bit among them (R82). -/
def formatFields : Instr → List (Nat × Nat)
  | .br _ _ | .ld _ _ | .ldi _ _ | .lea _ _ | .st _ _ | .sti _ _ => [(12, 4), (9, 3), (0, 9)]
  | .addReg _ _ _ | .andReg _ _ _ => [(12, 4), (9, 3), (6, 3), (5, 1), (0, 3)]
  | .addImm _ _ _ | .andImm _ _ _ => [(12, 4), (9, 3), (6, 3), (5, 1), (0, 5)]
  | .ldr _ _ _ | .str _ _ _ => [(12, 4), (9, 3), (6, 3), (0, 6)]
  | .jsr _ => [(12, 4), (11, 1), (0, 11)]
  | .jsrr _ => [(12, 4), (11, 1), (6, 3)]
  | .notOp _ _ => [(12, 4), (9, 3), (6, 3)]
  | .jmp _ => [(12, 4), (6, 3)]
  | .rti | .reserved => [(12, 4)]
  | .trap _ | .trapGetc | .trapOut | .trapPuts | .trapIn | .trapPutsp | .trapHalt => [(12, 4), (0, 8)]

/-- The ignored bits are those in no field. -/
theorem fieldsMask_formatFields (i : Instr) : fieldsMask (formatFields i) = ~~~(ignoredBits i) := by
  cases i <;> simp only [formatFields, ignoredBits] <;> decide

theorem extract_fieldsMask_formatFields (i : Instr) :
    ∀ f ∈ formatFields i, (fieldsMask (formatFields i)).extractLsb' f.1 f.2 = BitVec.allOnes f.2 := by
  cases i <;> simp only [formatFields] <;> decide

theorem opcode_mem_formatFields (i : Instr) : (12, 4) ∈ formatFields i := by
  cases i <;> exact List.mem_cons_self

theorem formatFields_decodeTrap (code : BitVec 8) : formatFields (decodeTrap code) = [(12, 4), (0, 8)] := by
  unfold decodeTrap
  split <;> rfl

theorem decodeTrap_inj {a b : BitVec 8} : decodeTrap a = decodeTrap b ↔ a = b := by
  refine ⟨fun h => ?_, congrArg decodeTrap⟩
  have hcode : some a = some b := by rw [← trapCode_decodeTrap, h, trapCode_decodeTrap]
  exact Option.some.inj hcode

theorem opcodeOf_eq_opcodeOf {v w : Word} : opcodeOf v = opcodeOf w ↔ v.extractLsb' 12 4 = w.extractLsb' 12 4 :=
  opcodeTable_get_inj (opcodeField v) (opcodeField w)

/-- A bit is a field of one bit. -/
theorem getLsbD_eq_iff {v w : Word} {i : Nat} : v.getLsbD i = w.getLsbD i ↔ v.extractLsb' i 1 = w.extractLsb' i 1 := by
  constructor
  · intro h
    ext j hj
    obtain rfl : j = 0 := by omega
    simpa using h
  · intro h
    simpa using congrArg (·.getLsbD 0) h

theorem immFlag_eq_iff {v w : Word} : immFlag v = immFlag w ↔ v.extractLsb' 5 1 = w.extractLsb' 5 1 := getLsbD_eq_iff

theorem jsrModeFlag_eq_iff {v w : Word} : jsrModeFlag v = jsrModeFlag w ↔ v.extractLsb' 11 1 = w.extractLsb' 11 1 :=
  getLsbD_eq_iff

theorem drField_eq_iff {v w : Word} : drField v = drField w ↔ v.extractLsb' 9 3 = w.extractLsb' 9 3 := BitVec.toFin_inj

theorem sr1Field_eq_iff {v w : Word} : sr1Field v = sr1Field w ↔ v.extractLsb' 6 3 = w.extractLsb' 6 3 := BitVec.toFin_inj

theorem sr2Field_eq_iff {v w : Word} : sr2Field v = sr2Field w ↔ v.extractLsb' 0 3 = w.extractLsb' 0 3 := BitVec.toFin_inj

/-- Words that decode alike have one opcode. -/
theorem opcodeOf_eq_of_decode_eq {v w : Word} (h : decode v = decode w) : opcodeOf v = opcodeOf w := by
  rw [← entry_decode, h, entry_decode]

/-- Two words decode alike exactly when they agree in every field of the one's format: the same opcode takes both to the same arm
of the decoder, and its mode bit to the same form. -/
theorem decode_eq_iff_sameFields {v w : Word} : decode v = decode w ↔ SameFields (formatFields (decode w)) v w := by
  by_cases hv : opcodeOf v = opcodeOf w
  case neg =>
    exact ⟨fun h => absurd (opcodeOf_eq_of_decode_eq h) hv,
      fun h => absurd (opcodeOf_eq_opcodeOf.2 (h _ (opcode_mem_formatFields _))) hv⟩
  have hfield := opcodeOf_eq_opcodeOf.1 hv
  cases hop : opcodeOf w
  case trap =>
    rw [decode_of_trap hop, decode_of_trap (hv.trans hop), decodeTrap_inj, formatFields_decodeTrap]
    simp [SameFields, hfield, trapvectField]
  case add | and =>
    have hbit := immFlag_eq_iff (v := v) (w := w)
    simp only [decode, hv, hop]
    cases hbv : immFlag v <;> cases hbw : immFlag w <;>
      simp_all [SameFields, formatFields, drField_eq_iff, sr1Field_eq_iff, sr2Field_eq_iff, imm5Field]
  case jsr =>
    have hbit := jsrModeFlag_eq_iff (v := v) (w := w)
    simp only [decode, hv, hop]
    cases hbv : jsrModeFlag v <;> cases hbw : jsrModeFlag w <;>
      simp_all [SameFields, formatFields, sr1Field_eq_iff, offset11Field]
  all_goals
    simp [decode, hv, hop, SameFields, formatFields, hfield, drField_eq_iff, sr1Field_eq_iff, nzpField, offset9Field,
      offset6Field]

/-- Two words decode alike exactly when they differ in no bit but ignored ones (R87). -/
theorem decode_eq_iff_and {v w : Word} :
    decode v = decode w ↔ v &&& ~~~(ignoredBits (decode w)) = w &&& ~~~(ignoredBits (decode w)) := by
  rw [decode_eq_iff_sameFields, sameFields_iff_and (extract_fieldsMask_formatFields _), fieldsMask_formatFields]

/-- A TRAP form is written with its service's constructor where its code has one (R152). -/
theorem wellFormed_decodeTrap (code : BitVec 8) : (decodeTrap code).WellFormed := by
  unfold decodeTrap
  cases h : serviceOf code with
  | none => simp [Instr.WellFormed, Instr.wellFormed, (serviceOf_eq_none_iff code).1 h]
  | some svc => cases svc <;> rfl

theorem wellFormed_decode (w : Word) : (decode w).WellFormed := by
  cases hop : opcodeOf w
  case trap => rw [decode_of_trap hop]; exact wellFormed_decodeTrap _
  case add => rw [decode_of_add hop]; split <;> rfl
  case and => rw [decode_of_and hop]; split <;> rfl
  case jsr => rw [decode_of_jsr hop]; split <;> rfl
  all_goals rw [decode, hop]; rfl

/-! ### The rows of the opcode table (R82) -/

/-- The bits that some base row looks at: the opcode and the two mode bits. -/
def rowFields : List (Nat × Nat) := [(12, 4), (11, 1), (5, 1)]

/-- A word with a given opcode and mode bits and nothing else. -/
def rowWord (o : BitVec 4) (j i : BitVec 1) : Word := o ++ j ++ 0#5 ++ i ++ 0#5

theorem and_rowFields (w : Word) :
    w &&& fieldsMask rowFields =
      rowWord (w.extractLsb' 12 4) (w.extractLsb' 11 1) (w.extractLsb' 5 1) &&& fieldsMask rowFields := by
  apply and_fieldsMask
  intro f hf
  fin_cases hf <;>
    simp (disch := omega) only [rowWord, extract_append_high, extract_append_low, Nat.reduceSub, extract_whole]

/-- No base row's mask has a bit outside `rowFields`. -/
theorem baseRows_mask {r : Word × Word} (hr : r ∈ baseRows) : r.1 = fieldsMask rowFields &&& r.1 := by
  have hall : baseRows.all (fun r => r.1 == fieldsMask rowFields &&& r.1) = true := by decide
  simpa using List.all_eq_true.1 hall r hr

theorem length_filter_rowWord (o : BitVec 4) (j i : BitVec 1) :
    (baseRows.filter (fun r => rowWord o j i &&& r.1 == r.2)).length = 1 := by
  revert o j i
  decide

/-- The row of a word is the row of its opcode and mode bits, of which there is one in each of the 64 cases. -/
theorem length_filter_baseRows (w : Word) : (baseRows.filter (fun r => w &&& r.1 == r.2)).length = 1 := by
  have hrows : ∀ r ∈ baseRows, (w &&& r.1 == r.2) =
      (rowWord (w.extractLsb' 12 4) (w.extractLsb' 11 1) (w.extractLsb' 5 1) &&& r.1 == r.2) := by
    intro r hr
    rw [baseRows_mask hr, ← BitVec.and_assoc, and_rowFields, BitVec.and_assoc]
  rw [List.filter_congr hrows]
  exact length_filter_rowWord _ _ _

/-- A row's match is under its mask, so a word belongs to the row when it agrees with the match in the mask's fields. -/
theorem row_iff_sameFields {fs : List (Nat × Nat)} {m v w : Word} (hm : fieldsMask fs = m) (hv : v &&& m = v)
    (hones : ∀ f ∈ fs, (fieldsMask fs).extractLsb' f.1 f.2 = BitVec.allOnes f.2) : w &&& m = v ↔ SameFields fs w v := by
  rw [sameFields_iff_and hones, hm, hv]

/-- A row that looks at the opcode alone: its words are those whose form the entry of the match's opcode has. -/
theorem opcodeRow_iff {v w : Word} {o : Opcode} (P : Instr → Prop) (hv : v &&& 0xF000#16 = v) (ho : opcodeOf v = o)
    (hP : ∀ i, Laws.EncodeOpcode.entry i = o ↔ P i) : w &&& 0xF000#16 = v ↔ P (decode w) := by
  rw [row_iff_sameFields (fs := [(12, 4)]) (m := 0xF000#16) rfl hv (by decide), ← hP, entry_decode, ← ho, opcodeOf_eq_opcodeOf]
  simp [SameFields]

/-- A row that looks at the opcode and bit 5. -/
theorem immRow_iff {v w : Word} {o : Opcode} {b : Bool} (hv : v &&& 0xF020#16 = v) (ho : opcodeOf v = o) (hb : immFlag v = b) :
    w &&& 0xF020#16 = v ↔ opcodeOf w = o ∧ immFlag w = b := by
  rw [row_iff_sameFields (fs := [(12, 4), (5, 1)]) (m := 0xF020#16) rfl hv (by decide), ← ho, ← hb, opcodeOf_eq_opcodeOf,
    immFlag_eq_iff]
  simp [SameFields]

/-- A row that looks at the opcode and bit 11. -/
theorem jsrRow_iff {v w : Word} {b : Bool} (hv : v &&& 0xF800#16 = v) (ho : opcodeOf v = .jsr) (hb : jsrModeFlag v = b) :
    w &&& 0xF800#16 = v ↔ opcodeOf w = .jsr ∧ jsrModeFlag w = b := by
  rw [row_iff_sameFields (fs := [(12, 4), (11, 1)]) (m := 0xF800#16) rfl hv (by decide), ← ho, ← hb, opcodeOf_eq_opcodeOf,
    jsrModeFlag_eq_iff]
  simp [SameFields]

/-- A word that decodes to `i` has `i`'s opcode. -/
theorem opcodeOf_of_decode_eq {w : Word} {i : Instr} (h : decode w = i) : opcodeOf w = Laws.EncodeOpcode.entry i := by
  rw [← h, entry_decode]

/-- The forms of ADD: opcode 1 and the mode bit (R82). -/
theorem add_forms (w : Word) :
    ((opcodeOf w = .add ∧ immFlag w = false) ↔ ∃ dr sr1 sr2, decode w = .addReg dr sr1 sr2) ∧
    ((opcodeOf w = .add ∧ immFlag w = true) ↔ ∃ dr sr1 imm, decode w = .addImm dr sr1 imm) := by
  by_cases hop : opcodeOf w = .add
  · rw [decode_of_add hop]
    cases immFlag w <;> simp [hop]
  · simp only [hop, false_and, false_iff]
    exact ⟨fun ⟨_, _, _, h⟩ => hop (opcodeOf_of_decode_eq h), fun ⟨_, _, _, h⟩ => hop (opcodeOf_of_decode_eq h)⟩

/-- The forms of AND: opcode 5 and the mode bit (R82). -/
theorem and_forms (w : Word) :
    ((opcodeOf w = .and ∧ immFlag w = false) ↔ ∃ dr sr1 sr2, decode w = .andReg dr sr1 sr2) ∧
    ((opcodeOf w = .and ∧ immFlag w = true) ↔ ∃ dr sr1 imm, decode w = .andImm dr sr1 imm) := by
  by_cases hop : opcodeOf w = .and
  · rw [decode_of_and hop]
    cases immFlag w <;> simp [hop]
  · simp only [hop, false_and, false_iff]
    exact ⟨fun ⟨_, _, _, h⟩ => hop (opcodeOf_of_decode_eq h), fun ⟨_, _, _, h⟩ => hop (opcodeOf_of_decode_eq h)⟩

/-- The forms of opcode 4, by the mode bit (R82). -/
theorem jsr_forms (w : Word) :
    ((opcodeOf w = .jsr ∧ jsrModeFlag w = true) ↔ ∃ off, decode w = .jsr off) ∧
    ((opcodeOf w = .jsr ∧ jsrModeFlag w = false) ↔ ∃ base, decode w = .jsrr base) := by
  by_cases hop : opcodeOf w = .jsr
  · rw [decode_of_jsr hop]
    cases jsrModeFlag w <;> simp [hop]
  · simp only [hop, false_and, false_iff]
    exact ⟨fun ⟨_, h⟩ => hop (opcodeOf_of_decode_eq h), fun ⟨_, h⟩ => hop (opcodeOf_of_decode_eq h)⟩

/-! ### The settled statements -/

/-- Settles O1: each word is decoded. -/
theorem writtenOutWordsDecode : Obligations.WrittenOutWordsDecode := by
  unfold Obligations.WrittenOutWordsDecode
  decide

/-- Settles O2: `decode_encode`. -/
theorem decodeOfEncodeIsIdentity : Obligations.DecodeOfEncodeIsIdentity := fun _ => decode_encode

/-- Settles O3: the word and the encoding of its instruction decode alike, so they differ in ignored bits only. -/
theorem encodeOfDecodeKeepsEveryField : Obligations.EncodeOfDecodeKeepsEveryField := fun w =>
  have hwf : (decode w).WellFormed := wellFormed_decode w
  ⟨hwf, decode_eq_iff_and.1 (decode_encode hwf)⟩

/-- Settles O4: the two words agree in every bit that is not ignored. -/
theorem ignoredBitsDoNotChangeDecode : Obligations.IgnoredBitsDoNotChangeDecode := by
  intro w x
  refine decode_eq_iff_and.2 (BitVec.eq_of_getLsbD_eq fun i hi => ?_)
  cases hbit : (ignoredBits (decode w)).getLsbD i <;> simp [hbit]

/-- Settles O5: the 64 cases of opcode and mode bits have one row each, and each row's mask and match say which entry and mode bit
a word has, which is what its decoded form says too. -/
theorem everyWordHasExactlyOneForm : Obligations.EveryWordHasExactlyOneForm := by
  refine ⟨length_filter_baseRows, fun w => ⟨
    opcodeRow_iff (o := .br) (fun i => ∃ nzp off, i = .br nzp off) rfl rfl ?_,
    (immRow_iff rfl rfl rfl).trans (add_forms w).1,
    (immRow_iff rfl rfl rfl).trans (add_forms w).2,
    opcodeRow_iff (o := .ld) (fun i => ∃ dr off, i = .ld dr off) rfl rfl ?_,
    opcodeRow_iff (o := .st) (fun i => ∃ sr off, i = .st sr off) rfl rfl ?_,
    (jsrRow_iff rfl rfl rfl).trans (jsr_forms w).1,
    (jsrRow_iff rfl rfl rfl).trans (jsr_forms w).2,
    (immRow_iff rfl rfl rfl).trans (and_forms w).1,
    (immRow_iff rfl rfl rfl).trans (and_forms w).2,
    opcodeRow_iff (o := .ldr) (fun i => ∃ dr base off, i = .ldr dr base off) rfl rfl ?_,
    opcodeRow_iff (o := .str) (fun i => ∃ sr base off, i = .str sr base off) rfl rfl ?_,
    opcodeRow_iff (o := .rti) (fun i => i = .rti) rfl rfl ?_,
    opcodeRow_iff (o := .not) (fun i => ∃ dr sr, i = .notOp dr sr) rfl rfl ?_,
    opcodeRow_iff (o := .ldi) (fun i => ∃ dr off, i = .ldi dr off) rfl rfl ?_,
    opcodeRow_iff (o := .sti) (fun i => ∃ sr off, i = .sti sr off) rfl rfl ?_,
    opcodeRow_iff (o := .jmp) (fun i => ∃ base, i = .jmp base) rfl rfl ?_,
    opcodeRow_iff (o := .reserved) (fun i => i = .reserved) rfl rfl ?_,
    opcodeRow_iff (o := .lea) (fun i => ∃ dr off, i = .lea dr off) rfl rfl ?_,
    opcodeRow_iff (o := .trap) (fun i => (Machine.Instr.trapCode i).isSome = true) rfl rfl entry_eq_trap_iff⟩⟩
  all_goals
    intro i
    cases i <;> simp [Laws.EncodeOpcode.entry]

/-- Settles O6: opcode 15 is TRAP, and its decoded form hands on the low byte. -/
theorem trapWordCarriesItsLowByte : Obligations.TrapWordCarriesItsLowByte := by
  intro w hop
  rw [decode_of_trap (Laws.EncodeOpcode.of_field hop)]
  exact trapCode_decodeTrap _

end Sys2Proof

/-! SUPPORT for the invariant (10_state.md section 4, 43_trap.md section 2, 60_exceptions.md section 1). `State.Inv` of a RUNNING
state is three facts, of memory, of the record and of the service; each shape a step can have keeps or makes them. -/

namespace Sys2Proof.Machine

/-! ### The parts of the invariant -/

/-- The fault record holds its reset values (R33). -/
def State.RecordEmpty (s : State) : Prop := s.faultCause = 0x0#4 ∧ s.faultPc = 0#16 ∧ s.faultIr = 0#16

/-- What the invariant says of the dispatcher: the service's word is in `ir`, its index within its text, its latch in memory. -/
structure State.ServiceOk (s : State) : Prop where
  word : ∀ svc, s.dstate.service = some svc → IsTrapWord s.ir svc
  prompt : ∀ i, s.dstate = .inPrompt i → i ≤ s.promptText.length
  notice : ∀ i, s.dstate = .haltNotice i → i ≤ s.noticeText.length
  latch : ∀ a c, s.dstate = .putspHi a c → s.memRead a = c ∧ lowByte c ≠ 0x00#8

/-- An idle dispatcher has nothing to say. -/
theorem State.serviceOk_of_idle {s : State} (h : s.dstate = .idle) : s.ServiceOk := by
  constructor <;> simp [h, DState.service]

theorem State.Inv.serviceOk {s : State} (h : s.Inv) : s.ServiceOk := ⟨h.serviceWord, h.promptIndex, h.noticeIndex, h.putspLatch⟩

/-- The invariant's claims about memory, the engine and the record, and those about the dispatcher. -/
theorem State.inv_of_serviceOk {s : State} (hm : s.mem.wf = true) (hstop : s.estate = .halted ∨ s.estate = .faulted → s.dstate = .idle)
    (hempty : s.estate ≠ .faulted → s.RecordEmpty)
    (hwritten : s.estate = .faulted → s.faultPc = s.pc - 1#16 ∧ s.faultIr = s.ir ∧ CauseMatchesWord s.faultCause s.faultIr)
    (hs : s.ServiceOk) : s.Inv :=
  ⟨hm, hstop, hempty, hwritten, hs.word, hs.prompt, hs.notice, hs.latch⟩

/-- Outside the two stops that leave the dispatcher idle, the invariant is its three parts. -/
theorem State.inv_of_parts {s : State} (hh : s.estate ≠ .halted) (hf : s.estate ≠ .faulted) (hm : s.mem.wf = true)
    (hr : s.RecordEmpty) (hs : s.ServiceOk) : s.Inv :=
  State.inv_of_serviceOk hm (fun h => absurd h (not_or.2 ⟨hh, hf⟩)) (fun _ => hr) (fun h => absurd h hf) hs

theorem State.inv_of_running {s : State} (he : s.estate = .running) (hm : s.mem.wf = true) (hr : s.RecordEmpty)
    (hs : s.ServiceOk) : s.Inv :=
  State.inv_of_parts (by simp [he]) (by simp [he]) hm hr hs

/-- With the dispatcher idle and no fault, memory and the record are all the invariant speaks of. -/
theorem State.inv_of_idle {s : State} (hd : s.dstate = .idle) (hf : s.estate ≠ .faulted) (hm : s.mem.wf = true)
    (hr : s.RecordEmpty) : s.Inv :=
  State.inv_of_serviceOk hm (fun _ => hd) (fun _ => hr) (fun h => absurd h hf) (State.serviceOk_of_idle hd)

/-- Raising a fault writes the record the invariant asks for, if the cause fits the word in `ir` (R201). -/
theorem State.raiseFault_inv {s : State} {cause : FaultCause} (hm : s.mem.wf = true) (hc : CauseMatchesWord cause.code s.ir) :
    (s.raiseFault cause).Inv :=
  State.inv_of_serviceOk (s := s.raiseFault cause) hm (fun _ => rfl) (fun h => absurd rfl h) (fun _ => ⟨rfl, rfl, hc⟩)
    (State.serviceOk_of_idle rfl)

/-- An abort leaves the record empty and the service as it was (R204). -/
theorem State.Inv.takeAbort {s : State} (h : s.Inv) (he : s.estate = .running) : s.takeAbort.Inv :=
  have hs := h.serviceOk
  State.inv_of_parts (s := s.takeAbort) (by simp) (by simp) h.memWf (h.recordEmpty (by simp [he]))
    ⟨hs.word, hs.prompt, hs.notice, hs.latch⟩

/-! ### The word behind an instruction (R150, R200) -/

/-- A code of a decoded word is the low byte of a TRAP word. -/
theorem trapCode_decode {w : Word} {code : BitVec 8} (h : Instr.trapCode (decode w) = some code) :
    opcodeOf w = .trap ∧ trapvectField w = code := by
  have hop : opcodeOf w = .trap := by
    rw [← entry_decode]
    exact (entry_eq_trap_iff _).2 (by simp [h])
  refine ⟨hop, ?_⟩
  rw [decode_of_trap hop, trapCode_decodeTrap] at h
  exact Option.some.inj h

/-- A decoded TRAP either starts the service its word selects, or raises the fault that fits its word (R152, R159). -/
theorem dispatch_decode_cases {w : Word} {code : BitVec 8} (s : State) (h : Instr.trapCode (decode w) = some code) :
    (∃ svc, IsTrapWord w svc ∧ dispatch code s = s.setDstate (Service.initialState svc s)) ∨
    (CauseMatchesWord FaultCause.illegalTrap.code w ∧ dispatch code s = s.raiseFault .illegalTrap) := by
  obtain ⟨hop, hcode⟩ := trapCode_decode h
  obtain ⟨svc, hsvc, heq⟩ | ⟨hnone, heq⟩ := dispatch_cases code s
  · exact .inl ⟨svc, ⟨hop, hcode ▸ hsvc⟩, heq⟩
  · exact .inr ⟨.inr (.inr (.inl ⟨rfl, hop, hcode ▸ hnone⟩)), heq⟩

theorem opcodeOf_of_decode_rti {w : Word} (h : decode w = .rti) : opcodeOf w = .rti := by
  rw [← entry_decode, h]; rfl

theorem opcodeOf_of_decode_reserved {w : Word} (h : decode w = .reserved) : opcodeOf w = .reserved := by
  rw [← entry_decode, h]; rfl

/-! ### A service's states -/

@[simp] theorem service_initialState (svc : Service) (s : State) : (Service.initialState svc s).service = some svc := by
  cases svc <;> rfl

/-- A service begins at the start of its text and with nothing latched (R152). -/
theorem State.serviceOk_start {s : State} {svc : Service} (h : IsTrapWord s.ir svc) :
    (s.setDstate (Service.initialState svc s)).ServiceOk where
  word svc' h' := by
    rw [State.setDstate_dstate, service_initialState, Option.some.injEq] at h'
    exact h' ▸ h
  prompt i h' := by cases svc <;> cases h'; exact Nat.zero_le _
  notice i h' := by cases svc <;> cases h'; exact Nat.zero_le _
  latch a c h' := by cases svc <;> cases h'

/-! ### Each kind of step keeps the invariant -/

/-- An instruction of the fetched word (R244). -/
theorem exec_inv {f t : State} (he : f.estate = .running) (hd : f.dstate = .idle) (hm : f.mem.wf = true) (hr : f.RecordEmpty)
    (h : exec (decode f.ir) f = .next t) : t.Inv := by
  have hrun : f.estate ≠ .faulted := by simp [he]
  rcases exec_cases h with ⟨r, v, -, rfl⟩ | ⟨w, -, rfl⟩ | ⟨w, -, rfl⟩ | ⟨a, v, -, rfl⟩ | ⟨code, hcode, rfl⟩ | ⟨hi, rfl⟩ |
    ⟨hi, rfl⟩
  · exact State.inv_of_idle (s := f.writeDest r v) hd hrun hm hr
  · exact State.inv_of_idle (s := f.setPc w) hd hrun hm hr
  · exact State.inv_of_idle (s := (f.setReg linkReg f.pc).setPc w) hd hrun hm hr
  · exact State.inv_of_idle (s := f.memWrite a v) hd hrun (State.memWrite_wf hm a v) hr
  · obtain ⟨svc, hword, heq⟩ | ⟨hcause, heq⟩ := dispatch_decode_cases f hcode
    · rw [heq]
      exact State.inv_of_running (s := f.setDstate _) he hm hr (State.serviceOk_start hword)
    · rw [heq]
      exact State.raiseFault_inv hm hcause
  · exact State.raiseFault_inv hm (.inl ⟨rfl, opcodeOf_of_decode_rti hi⟩)
  · exact State.raiseFault_inv hm (.inr (.inl ⟨rfl, opcodeOf_of_decode_reserved hi⟩))

/-- A step within a service: the word and its service stay, so what is left to say is about the new index or latch. -/
theorem State.ServiceOk.of_same {s t : State} (hs : s.ServiceOk) (hir : t.ir = s.ir)
    (hsvc : t.dstate.service = s.dstate.service) (hp : ∀ i, t.dstate = .inPrompt i → i ≤ t.promptText.length)
    (hn : ∀ i, t.dstate = .haltNotice i → i ≤ t.noticeText.length)
    (hl : ∀ a c, t.dstate = .putspHi a c → t.memRead a = c ∧ lowByte c ≠ 0x00#8) : t.ServiceOk where
  word svc h := hir ▸ hs.word svc (hsvc ▸ h)
  prompt := hp
  notice := hn
  latch := hl

/-- The byte just read out of a text was within it, so the next index is at most its length. -/
theorem succ_le_length_of_getElem? {l : List Byte} {i : Nat} {b : Byte} (h : l[i]? = some b) : i + 1 ≤ l.length :=
  (List.getElem?_eq_some_iff.1 h).1

/-- The end of input fits the word of the service that waits for it (R153, R156, R200). -/
theorem State.ServiceOk.causeMatches_inputEof {s : State} (hs : s.ServiceOk) (hwait : s.dstate = .getcWait ∨ s.dstate = .inWait) :
    CauseMatchesWord FaultCause.inputEof.code s.ir := by
  refine .inr (.inr (.inr ⟨rfl, hwait.imp (fun h => ?_) fun h => ?_⟩))
  · exact hs.word .getc (by rw [h]; rfl)
  · exact hs.word .inp (by rw [h]; rfl)

/-- A dispatcher step ends its service, stops by a fault that fits the word, or goes on within the service (R245, R151). -/
theorem dispatcherStep_inv {s t : State} (hd : s.dstate ≠ .idle) (he : s.estate = .running) (hinv : s.Inv)
    (h : dispatcherStep s = .next t) : t.Inv := by
  have hrun : s.estate ≠ .faulted := by simp [he]
  have hm : s.mem.wf = true := hinv.memWf
  have hr : s.RecordEmpty := hinv.recordEmpty hrun
  have hs : s.ServiceOk := hinv.serviceOk
  rcases dispatcherStep_cases hd h with ⟨_, _, -, -, rfl⟩ | ⟨_, hwait, -, rfl⟩ | ⟨-, rfl⟩ | ⟨_, -, -, rfl⟩ | ⟨_, hds, -, rfl⟩ |
    ⟨i, b, hds, hb, rfl⟩ | ⟨_, hds, -, rfl⟩ | ⟨_, _, hds, -, rfl⟩ | ⟨_, -, rfl⟩ | ⟨_, -, -, rfl⟩ | ⟨a, hds, hlow, rfl⟩ |
    ⟨_, _, -, -, rfl⟩ | ⟨_, _, hds, -, rfl⟩ | ⟨i, b, hds, hb, rfl⟩ | ⟨_, -, -, rfl⟩
  · exact State.inv_of_idle rfl hrun hm hr
  · exact State.raiseFault_inv hm (hs.causeMatches_inputEof hwait)
  · exact State.inv_of_idle rfl hrun hm hr
  · exact State.inv_of_idle rfl hrun hm hr
  · exact State.inv_of_running he hm hr (hs.of_same rfl (by rw [hds]; rfl) (by simp) (by simp) (by simp))
  · refine State.inv_of_running he hm hr (hs.of_same rfl (by rw [hds]; rfl) ?_ (by simp) (by simp))
    rintro _ ⟨⟩
    exact succ_le_length_of_getElem? hb
  · exact State.inv_of_running he hm hr (hs.of_same rfl (by rw [hds]; rfl) (by simp) (by simp) (by simp))
  · exact State.inv_of_running he hm hr (hs.of_same rfl (by rw [hds]; rfl) (by simp) (by simp) (by simp))
  · exact State.inv_of_idle rfl hrun hm hr
  · exact State.inv_of_idle rfl hrun hm hr
  · refine State.inv_of_running he hm hr (hs.of_same rfl (by rw [hds]; rfl) (by simp) (by simp) ?_)
    rintro _ _ ⟨⟩
    exact ⟨rfl, hlow⟩
  · exact State.inv_of_idle rfl hrun hm hr
  · exact State.inv_of_running he hm hr (hs.of_same rfl (by rw [hds]; rfl) (by simp) (by simp) (by simp))
  · refine State.inv_of_running he hm hr (hs.of_same rfl (by rw [hds]; rfl) (by simp) ?_ (by simp))
    rintro _ ⟨⟩
    exact succ_le_length_of_getElem? hb
  · exact State.inv_of_idle rfl (by simp) hm hr

/-- The invariant speaks of nothing that the host's countdown holds. -/
theorem State.Inv.passBoundary {s : State} (h : s.Inv) : s.passBoundary.Inv :=
  ⟨h.memWf, h.stoppedIdle, h.recordEmpty, h.recordWritten, h.serviceWord, h.promptIndex, h.noticeIndex, h.putspLatch⟩

/-- A launch that succeeds is the reset state over what the loader leaves (R240). -/
theorem launch_eq_ok {p : Params} {image : Option (List Byte)} {s : State} (h : launch p image = .ok s) :
    ∃ m, load image = .ok m ∧ s = State.resetWith p m := by
  unfold launch at h
  split at h
  · next m hm => cases h; exact ⟨m, hm, rfl⟩
  · cases h

/-! ### The settled statements -/

/-- Settles O59: an abort, an instruction of the word just fetched and a dispatcher step each keep the invariant. -/
theorem everyStepKeepsTheInvariant : Obligations.EveryStepKeepsTheInvariant := by
  intro s t hinv h
  obtain ⟨he, ⟨-, rfl⟩ | ⟨-, hd, hexec⟩ | ⟨-, hd, hstep⟩⟩ := step_cases h
  · exact hinv.takeAbort he
  · have hr : s.RecordEmpty := hinv.recordEmpty (by simp [he])
    exact exec_inv (f := s.passBoundary.fetch) he hd hinv.memWf hr hexec
  · exact dispatcherStep_inv (s := s.passBoundary) hd he hinv.passBoundary hstep

/-- Settles O60: the loader leaves memory in canonical form, and reset leaves the dispatcher idle and the record empty. -/
theorem invariantHoldsAfterReset : Obligations.InvariantHoldsAfterReset := by
  have hreset : ∀ (p : Params) (m : Memory), m.wf = true → (State.resetWith p m).Inv := fun p m hm =>
    State.inv_of_idle rfl (by simp [State.resetWith]) hm ⟨rfl, rfl, rfl⟩
  refine ⟨fun p image s h => ?_, hreset _ _ Memory.empty_wf⟩
  obtain ⟨m, hm, rfl⟩ := launch_eq_ok h
  exact hreset p m (load_wf hm)

end Sys2Proof.Machine

/-! SUPPORT for 40_operate.md, 41_control.md and the address modes of 42_load_store.md. What each instruction of these files does
in one equation, with the ALU as exact arithmetic (R110 to R123, R130). -/

namespace Sys2Proof.Machine

/-! ### Arithmetic -/

/-- The ALU's sum is the exact sum modulo 2^16 (R110). -/
theorem aluAdd_eq_ofNat (a b : Word) : aluAdd a b = BitVec.ofNat 16 (a.toNat + b.toNat) := by
  rw [aluAdd, BitVec.ofNat_add, BitVec.ofNat_toNat, BitVec.ofNat_toNat, BitVec.setWidth_eq, BitVec.setWidth_eq]

/-- The complement is 0xFFFF less the word (R113). -/
theorem aluNot_eq_sub (a : Word) : aluNot a = 0xFFFF#16 - a := (BitVec.allOnes_sub_eq_not a).symm

/-- BR's test, flag by flag (R120). -/
theorem branchTaken_iff (nzp : BitVec 3) (s : State) :
    branchTaken nzp s = true ↔
      (nzp.getLsbD 2 = true ∧ s.cond = .n) ∨ (nzp.getLsbD 1 = true ∧ s.cond = .z) ∨ (nzp.getLsbD 0 = true ∧ s.cond = .p) := by
  unfold branchTaken
  cases s.cond <;> revert nzp <;> decide

/-! ### The effects of a control transfer -/

/-- JSRR reads its base after R7 is written (R123). -/
theorem exec_jsrr (base : Reg) (s : State) :
    exec (.jsrr base) s = .next ((s.setReg linkReg s.pc).setPc ((s.setReg linkReg s.pc).reg base)) := rfl

theorem exec_br (nzp : BitVec 3) (off : BitVec 9) (s : State) :
    exec (.br nzp off) s = .next (s.setPc (if branchTaken nzp s then eaPcRelative off s else s.pc)) := rfl

theorem exec_jmp (base : Reg) (s : State) : exec (.jmp base) s = .next (s.setPc (s.reg base)) := rfl

/-- Moving `pc` changes nothing else. -/
theorem setPc_frame (w : Word) (s : State) :
    (s.setPc w).cond = s.cond ∧ s.SameRegs (s.setPc w) ∧ s.SameMem (s.setPc w) ∧ s.SameRest (s.setPc w) :=
  ⟨rfl, fun _ => rfl, fun _ => rfl, rfl, ⟨rfl, rfl⟩, ⟨rfl, rfl, rfl⟩, ⟨rfl, rfl, rfl⟩, ⟨rfl, rfl⟩, rfl⟩

/-! ### The settled statements -/

/-- Settles O10: either form is a write of DR with the ALU's sum. -/
theorem addWritesTheSum : Obligations.AddWritesTheSum := by
  refine ⟨fun w hop => decode_of_add (Laws.EncodeOpcode.of_field hop), fun s dr sr1 sr2 => ⟨_, rfl, ?_⟩,
    fun s dr sr1 imm => ⟨_, rfl, ?_⟩⟩
  · rw [← aluAdd_eq_ofNat]
    exact writesDest_writeDest dr _ s
  · rw [← aluAdd_sext]
    exact writesDest_writeDest dr _ s

/-- Settles O11: either form is a write of DR with the ALU's conjunction. -/
theorem andWritesTheConjunction : Obligations.AndWritesTheConjunction :=
  ⟨fun _ hop => decode_of_and (Laws.EncodeOpcode.of_field hop), fun s dr _ _ => ⟨_, rfl, writesDest_writeDest dr _ s⟩,
    fun s dr _ _ => ⟨_, rfl, writesDest_writeDest dr _ s⟩⟩

/-- Settles O12: NOT is a write of DR with the complement. -/
theorem notWritesTheComplement : Obligations.NotWritesTheComplement := by
  refine ⟨fun w hop => decode_of_not (Laws.EncodeOpcode.of_field hop), fun s dr sr => ⟨_, rfl, ?_⟩⟩
  rw [← aluNot_eq_sub]
  exact writesDest_writeDest dr _ s

/-- Settles O13: each mode but the last is the adder applied to a sign-extended offset. -/
theorem effectiveAddressesFollowTheModes : Obligations.EffectiveAddressesFollowTheModes := fun s base off9 off6 =>
  ⟨aluAdd_sext s.pc off9, congrArg s.memRead (aluAdd_sext s.pc off9), aluAdd_sext (s.reg base) off6, rfl⟩

/-- Settles O21: the store is one cell written, so the load reads it back or reads past it. -/
theorem loadAfterStoreReadsTheStoredWord : Obligations.LoadAfterStoreReadsTheStoredWord := by
  intro s t sr base dr base' off off' h
  cases h
  refine ⟨_, exec_ldr dr base' off' _, fun heq => ?_, fun hne => ?_⟩
  · rw [State.reg_writeDest_self]
    exact heq ▸ State.memRead_memWrite_self s _ _
  · rw [State.reg_writeDest_self]
    exact State.memRead_memWrite_ne s _ hne

/-- Settles O23: BR is one write of `pc`, and its test is `branchTaken_iff`. -/
theorem brTestsTheSelectedFlags : Obligations.BrTestsTheSelectedFlags := by
  refine ⟨fun w hop => decode_of_br (Laws.EncodeOpcode.of_field hop),
    fun s nzp off => ⟨_, exec_br nzp off s, ?_, setPc_frame _ s⟩, fun c => by cases c <;> decide⟩
  rw [State.setPc_pc, eaPcRelative, aluAdd_sext]
  simp only [branchTaken_iff]

/-- Settles O24: JMP is one write of `pc`. -/
theorem jmpGoesToTheRegister : Obligations.JmpGoesToTheRegister :=
  ⟨fun _ hop => decode_of_jmp (Laws.EncodeOpcode.of_field hop), by decide,
    fun s base => ⟨_, exec_jmp base s, rfl, setPc_frame _ s⟩⟩

/-- Settles O26: the base is read after R7 is written, so another register is as before and R7 is A + 1. -/
theorem jsrrLinksBeforeReadingTheBase : Obligations.JsrrLinksBeforeReadingTheBase := by
  refine ⟨fun w hop hmode => ?_, fun s base => ⟨_, exec_jsrr base s, ?_⟩⟩
  · rw [decode_of_jsr (Laws.EncodeOpcode.of_field hop), jsrModeFlag, hmode]
    rfl
  · have hlink : (s.setReg linkReg s.pc).reg 7 = s.pc := State.reg_setReg_self s linkReg s.pc
    have hothers : s.SameRegsBut 7 (s.setReg linkReg s.pc) := fun _ hr => State.reg_setReg_ne s s.pc hr
    exact ⟨hlink, hothers base, fun hbase => hbase ▸ hlink, hothers, rfl, fun _ => rfl,
      rfl, ⟨rfl, rfl⟩, ⟨rfl, rfl, rfl⟩, ⟨rfl, rfl, rfl⟩, ⟨rfl, rfl⟩, rfl⟩

end Sys2Proof.Machine

/-! SUPPORT for 20_memory.md. A memory in canonical form lists exactly the addresses that do not read 0x0000 (R59; log 1), and the
loader takes exactly the streams of an origin and words that fit (R60, R62). -/

namespace Sys2Proof.Machine

/-! ### Canonical memory -/

/-- One cell stands before another. -/
def CellBefore (c d : Cell) : Prop := c.1 < d.1

theorem Memory.rising_iff_pairwise (cs : List Cell) : Memory.rising cs = true ↔ cs.Pairwise CellBefore := by
  induction cs with
  | nil => simp [Memory.rising]
  | cons c cs ih => rw [Memory.rising_cons, List.pairwise_cons, ih]; rfl

/-- A listed cell is what its address reads as, no earlier cell having that address. -/
theorem Memory.lookup_of_mem {cs : List Cell} (hr : Memory.rising cs = true) {c : Cell} (h : c ∈ cs) :
    Memory.lookup c.1 cs = c.2 := by
  induction cs with
  | nil => cases h
  | cons d cs ih =>
    obtain ⟨hd, hr'⟩ := (Memory.rising_cons d cs).1 hr
    rcases List.mem_cons.1 h with rfl | hc
    · simp [Memory.lookup]
    · have hne : d.1 ≠ c.1 := Nat.ne_of_lt (hd c hc)
      simpa [Memory.lookup, hne] using ih hr' hc

/-- What does not read as 0x0000 is listed. -/
theorem Memory.mem_of_lookup_ne {a : Nat} {cs : List Cell} (h : Memory.lookup a cs ≠ 0#16) : (a, Memory.lookup a cs) ∈ cs := by
  induction cs with
  | nil => exact absurd rfl h
  | cons c cs ih =>
    by_cases hc : c.1 = a
    · subst hc
      simp [Memory.lookup]
    · simp only [Memory.lookup, hc, if_false] at h ⊢
      exact List.mem_cons_of_mem c (ih h)

/-- In canonical form the listed cells are known from what the addresses read as. -/
theorem Memory.mem_cells_iff {m : Memory} (hm : m.wf = true) (c : Cell) :
    c ∈ m.cells ↔ c.1 < Config.memoryWords ∧ m.get c.1 ≠ 0#16 ∧ m.get c.1 = c.2 := by
  obtain ⟨hr, hok⟩ := (Memory.wf_iff m).1 hm
  constructor
  · intro hc
    have hget : m.get c.1 = c.2 := Memory.lookup_of_mem hr hc
    exact ⟨(hok c hc).1, hget ▸ (hok c hc).2, hget⟩
  · rintro ⟨-, hne, hget⟩
    have hmem : (c.1, m.get c.1) ∈ m.cells := Memory.mem_of_lookup_ne hne
    rwa [hget] at hmem

/-- Memories in canonical form that read alike have one list of cells. -/
theorem Memory.eq_of_get_eq {m n : Memory} (hm : m.wf = true) (hn : n.wf = true)
    (h : ∀ a, a < Config.memoryWords → m.get a = n.get a) : m = n := by
  have hmem : ∀ c, c ∈ m.cells ↔ c ∈ n.cells := by
    intro c
    rw [Memory.mem_cells_iff hm, Memory.mem_cells_iff hn]
    exact and_congr_right fun hc => by rw [h c.1 hc]
  have hsorted : ∀ {m : Memory}, m.wf = true → m.cells.Pairwise CellBefore := fun hm =>
    (Memory.rising_iff_pairwise _).1 ((Memory.wf_iff _).1 hm).1
  have hirrefl : Std.Irrefl CellBefore := ⟨fun c => Nat.lt_irrefl c.1⟩
  have hantisymm : Std.Antisymm CellBefore := ⟨fun c d hcd hdc => absurd hdc (Nat.lt_asymm hcd)⟩
  exact congrArg Memory.mk (List.Pairwise.eq_of_mem_iff (hsorted hm) (hsorted hn) hmem)

/-! ### The streams the loader takes (R60) -/

theorem bytesOfWord_wordOfBytes (hi lo : Byte) : bytesOfWord (wordOfBytes hi lo) = [hi, lo] := by
  unfold bytesOfWord wordOfBytes
  rw [extract_append_high 8 8 8 8 hi lo (by omega), extract_append_low 0 8 8 8 hi lo (by omega)]
  simp

/-- An even number of bytes is the bytes of its words. -/
theorem flatMap_wordsOfBytes : ∀ bytes : List Byte, bytes.length % 2 = 0 → (wordsOfBytes bytes).flatMap bytesOfWord = bytes
  | [], _ => rfl
  | [_], h => absurd h (by simp)
  | hi :: lo :: rest, h => by
    have hrest : rest.length % 2 = 0 := by simp only [List.length_cons] at h; omega
    rw [wordsOfBytes, List.flatMap_cons, bytesOfWord_wordOfBytes, flatMap_wordsOfBytes rest hrest]
    rfl

theorem placeImage_of_overflow {origin : Word} {ws : List Word} (h : Config.memoryWords < origin.toNat + ws.length) :
    placeImage origin ws = .error .overflow := by
  have ho : origin.toNat < Config.memoryWords := origin.isLt
  exact if_pos (by omega)

theorem fits_of_placeImage {origin : Word} {ws : List Word} {m : Memory} (h : placeImage origin ws = .ok m) :
    origin.toNat + ws.length ≤ Config.memoryWords := by
  by_contra hover
  rw [placeImage_of_overflow (by omega)] at h
  cases h

/-- A stream that loads is the bytes of an origin and words that fit. -/
theorem stream_of_load {image : Option (List Byte)} {m : Memory} (h : load image = .ok m) :
    ∃ (origin : Word) (ws : List Word), image = some ((origin :: ws).flatMap bytesOfWord) ∧
      origin.toNat + ws.length ≤ Config.memoryWords := by
  match image, h with
  | some (hi :: lo :: rest), h =>
    by_cases hodd : rest.length % 2 = 1
    · rw [load, if_pos hodd] at h
      cases h
    · rw [load, if_neg hodd] at h
      refine ⟨wordOfBytes hi lo, wordsOfBytes rest, ?_, fits_of_placeImage h⟩
      rw [List.flatMap_cons, bytesOfWord_wordOfBytes, flatMap_wordsOfBytes rest (by omega)]
      rfl

theorem load_of_odd {bytes : List Byte} (h : bytes.length % 2 = 1) : load (some bytes) = .error .truncatedWord := by
  match bytes, h with
  | [_], _ => rfl
  | _ :: _ :: rest, h =>
    have hrest : rest.length % 2 = 1 := by simp only [List.length_cons] at h; omega
    rw [load, if_pos hrest]

/-! ### The settled statements -/

/-- Settles O22: the cells are determined by what the addresses read as. -/
theorem canonicalMemoriesReadAlikeAreEqual : Obligations.CanonicalMemoriesReadAlikeAreEqual := by
  intro m n hm hn h
  refine Memory.eq_of_get_eq hm hn fun a ha => ?_
  have haddr : (BitVec.ofNat 16 a).toNat = a := (BitVec.toNat_ofNat a 16).trans (Nat.mod_eq_of_lt ha)
  exact haddr ▸ h (BitVec.ofNat 16 a)

/-- Settles O57: each bad stream by its own case of the loader, and the good ones as the bytes of an origin and words. -/
theorem loaderFailsExactlyOnBadStreams : Obligations.LoaderFailsExactlyOnBadStreams := by
  refine ⟨rfl, rfl, fun bytes => load_of_odd, fun origin ws hover => ?_, fun image => ⟨fun ⟨m, h⟩ => stream_of_load h, ?_⟩⟩
  · rw [load_flatMap_bytesOfWord, placeImage_of_overflow hover]
  · rintro ⟨origin, ws, rfl, hfits⟩
    exact ⟨_, (load_flatMap_bytesOfWord origin ws).trans (placeImage_of_fits hfits)⟩

end Sys2Proof.Machine

/-! SUPPORT for 10_state.md, 43_trap.md section 4 and 60_exceptions.md. What a step may write of each part of the state, read off
the inversion lemmas of Laws/Step.lean (R22, R56, R160, R201). -/

namespace Sys2Proof.Machine

/-! ### Instructions -/

/-- Dispatch writes the dispatcher, the engine and the record, and nothing else (R150). -/
theorem dispatch_frame (code : BitVec 8) (s : State) :
    s.SameRegs (dispatch code s) ∧ s.SameMem (dispatch code s) ∧ s.SameStreams (dispatch code s) ∧
    s.SameTexts (dispatch code s) ∧ (dispatch code s).abortAfter = s.abortAfter := by
  obtain ⟨svc, -, h⟩ | ⟨-, h⟩ := dispatch_cases code s <;> rw [h] <;>
    exact ⟨fun _ => rfl, fun _ => rfl, ⟨rfl, rfl, rfl⟩, ⟨rfl, rfl⟩, rfl⟩

/-- No instruction touches the streams, the texts or the countdown. -/
theorem exec_frame {i : Instr} {s t : State} (h : exec i s = .next t) :
    s.SameStreams t ∧ s.SameTexts t ∧ t.abortAfter = s.abortAfter := by
  rcases exec_cases h with ⟨_, _, -, rfl⟩ | ⟨_, -, rfl⟩ | ⟨_, -, rfl⟩ | ⟨_, _, -, rfl⟩ | ⟨code, -, rfl⟩ | ⟨-, rfl⟩ | ⟨-, rfl⟩
  case inr.inr.inr.inr.inl =>
    obtain ⟨-, -, hstreams, htexts, habort⟩ := dispatch_frame code s
    exact ⟨hstreams, htexts, habort⟩
  all_goals exact ⟨⟨rfl, rfl, rfl⟩, ⟨rfl, rfl⟩, rfl⟩

theorem writtenReg_of_flagDest {i : Instr} {r : Reg} (h : Instr.flagDest i = some r) : Instr.writtenReg i = some r := by
  cases i
  case jsr | jsrr => cases h
  all_goals exact h

/-- A register that changes is the one the instruction names (R22). -/
theorem writtenReg_of_exec {i : Instr} {s t : State} {r : Reg} (h : exec i s = .next t) (hr : t.reg r ≠ s.reg r) :
    Instr.writtenReg i = some r := by
  rcases exec_cases h with ⟨d, v, hd, rfl⟩ | ⟨_, -, rfl⟩ | ⟨_, hi, rfl⟩ | ⟨_, _, -, rfl⟩ | ⟨code, -, rfl⟩ | ⟨-, rfl⟩ | ⟨-, rfl⟩
  case inl =>
    obtain rfl : r = d := by_contra fun hne => hr (State.reg_writeDest_ne s v hne)
    exact writtenReg_of_flagDest hd
  case inr.inr.inl =>
    obtain rfl : r = linkReg := by_contra fun hne => hr (State.reg_setReg_ne s s.pc hne)
    obtain ⟨_, rfl⟩ | ⟨_, rfl⟩ := hi <;> rfl
  case inr.inr.inr.inr.inl => exact absurd ((dispatch_frame code s).1 r) hr
  all_goals exact absurd rfl hr

/-- A cell that changes is the one the instruction stores to (R56). -/
theorem storeAddress_of_exec {i : Instr} {s t : State} {a : Word} (h : exec i s = .next t) (ha : t.memRead a ≠ s.memRead a) :
    Instr.storeAddress i s = some a := by
  rcases exec_cases h with ⟨_, _, -, rfl⟩ | ⟨_, -, rfl⟩ | ⟨_, -, rfl⟩ | ⟨b, v, hb, rfl⟩ | ⟨code, -, rfl⟩ | ⟨-, rfl⟩ | ⟨-, rfl⟩
  case inr.inr.inr.inl =>
    obtain rfl : a = b := by_contra fun hne => ha (State.memRead_memWrite_ne s v hne)
    exact hb
  case inr.inr.inr.inr.inl => exact absurd ((dispatch_frame code s).2.1 a) ha
  all_goals exact absurd rfl ha

/-- An instruction leaves the engine and the record alone, or it is a raised fault (R201). -/
theorem exec_engine_cases {i : Instr} {s t : State} (h : exec i s = .next t) :
    (t.estate = s.estate ∧ s.SameRecord t) ∨ ∃ cause, t = s.raiseFault cause := by
  rcases exec_cases h with ⟨_, _, -, rfl⟩ | ⟨_, -, rfl⟩ | ⟨_, -, rfl⟩ | ⟨_, _, -, rfl⟩ | ⟨code, -, rfl⟩ | ⟨-, rfl⟩ | ⟨-, rfl⟩
  case inr.inr.inr.inr.inl =>
    obtain ⟨svc, -, h⟩ | ⟨-, h⟩ := dispatch_cases code s <;> rw [h]
    · exact .inl ⟨rfl, rfl, rfl, rfl⟩
    · exact .inr ⟨_, rfl⟩
  case inr.inr.inr.inr.inr.inl => exact .inr ⟨_, rfl⟩
  case inr.inr.inr.inr.inr.inr => exact .inr ⟨_, rfl⟩
  all_goals exact .inl ⟨rfl, rfl, rfl, rfl⟩

/-! ### Dispatcher steps -/

/-- The fifteen rows of the dispatcher by what they write besides `dstate`: nothing, one byte of output, one byte of input with R0
or without, the echo with R0, a fault at the end of input, the stop (R151). -/
theorem dispatcherStep_shapes {s t : State} (hd : s.dstate ≠ .idle) (h : dispatcherStep s = .next t) :
    (∃ d, t = s.setDstate d) ∨ (∃ b d, t = (s.emit b).setDstate d) ∨
    (∃ b rest, s.dstate = .getcWait ∧ s.input = .byte b :: rest ∧
      t = ((s.consume b rest).setReg serviceReg (zextByte b)).setDstate .idle) ∨
    (∃ b rest, s.dstate = .inWait ∧ s.input = .byte b :: rest ∧ t = (s.consume b rest).setDstate (.inEcho b)) ∨
    (∃ b, s.dstate = .inEcho b ∧ t = ((s.emit b).setReg serviceReg (zextByte b)).setDstate .idle) ∨
    t = s.raiseFault .inputEof ∨
    (∃ i, s.dstate = .haltNotice i ∧ s.noticeText[i]? = none ∧ t = (s.setEstate .halted).setDstate .idle) := by
  rcases dispatcherStep_cases hd h with ⟨b, rest, hds, hin, rfl⟩ | ⟨_, -, -, rfl⟩ | ⟨-, rfl⟩ | ⟨_, -, -, rfl⟩ | ⟨_, -, -, rfl⟩ |
    ⟨_, _, -, -, rfl⟩ | ⟨_, -, -, rfl⟩ | ⟨b, rest, hds, hin, rfl⟩ | ⟨b, hds, rfl⟩ | ⟨_, -, -, rfl⟩ | ⟨_, -, -, rfl⟩ |
    ⟨_, _, -, -, rfl⟩ | ⟨_, _, -, -, rfl⟩ | ⟨_, _, -, -, rfl⟩ | ⟨i, hds, htext, rfl⟩
  · exact .inr (.inr (.inl ⟨b, rest, hds, hin, rfl⟩))
  · exact .inr (.inr (.inr (.inr (.inr (.inl rfl)))))
  · exact .inr (.inl ⟨_, _, rfl⟩)
  · exact .inl ⟨_, rfl⟩
  · exact .inr (.inl ⟨_, _, rfl⟩)
  · exact .inr (.inl ⟨_, _, rfl⟩)
  · exact .inl ⟨_, rfl⟩
  · exact .inr (.inr (.inr (.inl ⟨b, rest, hds, hin, rfl⟩)))
  · exact .inr (.inr (.inr (.inr (.inl ⟨b, hds, rfl⟩))))
  · exact .inl ⟨_, rfl⟩
  · exact .inr (.inl ⟨_, _, rfl⟩)
  · exact .inl ⟨_, rfl⟩
  · exact .inr (.inl ⟨_, _, rfl⟩)
  · exact .inr (.inl ⟨_, _, rfl⟩)
  · exact .inr (.inr (.inr (.inr (.inr (.inr ⟨i, hds, htext, rfl⟩)))))

/-- What no dispatcher step writes (R160). -/
def ServiceFrame (s t : State) : Prop :=
  s.SameMem t ∧ t.cond = s.cond ∧ t.pc = s.pc ∧ t.ir = s.ir ∧ s.SameRegsBut serviceReg t ∧ s.SameTexts t ∧
  t.abortAfter = s.abortAfter

theorem serviceFrame_of_dispatcherStep {s t : State} (hd : s.dstate ≠ .idle) (h : dispatcherStep s = .next t) :
    ServiceFrame s t := by
  rcases dispatcherStep_shapes hd h with ⟨_, rfl⟩ | ⟨_, _, rfl⟩ | ⟨b, rest, -, -, rfl⟩ | ⟨_, _, -, -, rfl⟩ | ⟨b, -, rfl⟩ | rfl |
    ⟨_, -, -, rfl⟩
  case inr.inr.inl | inr.inr.inr.inr.inl =>
    exact ⟨fun _ => rfl, rfl, rfl, rfl, fun _ hr => State.reg_setReg_ne _ _ hr, ⟨rfl, rfl⟩, rfl⟩
  all_goals exact ⟨fun _ => rfl, rfl, rfl, rfl, fun _ _ => rfl, ⟨rfl, rfl⟩, rfl⟩

/-- R0 changes at the step that ends GETC or IN only (R153, R156). -/
theorem dispatcherStep_reg0 {s t : State} (hd : s.dstate ≠ .idle) (h : dispatcherStep s = .next t) (hr : t.reg 0 ≠ s.reg 0) :
    (s.dstate = .getcWait ∨ ∃ b, s.dstate = .inEcho b) ∧ t.dstate = .idle := by
  rcases dispatcherStep_shapes hd h with ⟨_, rfl⟩ | ⟨_, _, rfl⟩ | ⟨_, _, hds, -, rfl⟩ | ⟨_, _, -, -, rfl⟩ | ⟨b, hds, rfl⟩ | rfl |
    ⟨_, -, -, rfl⟩
  case inr.inr.inl => exact ⟨.inl hds, rfl⟩
  case inr.inr.inr.inr.inl => exact ⟨.inr ⟨b, hds⟩, rfl⟩
  all_goals exact absurd rfl hr

/-- A dispatcher step leaves the engine and the record alone, raises a fault, or is the last of HALT. -/
theorem dispatcherStep_engine_cases {s t : State} (hd : s.dstate ≠ .idle) (h : dispatcherStep s = .next t) :
    (t.estate = s.estate ∧ s.SameRecord t) ∨ (∃ cause, t = s.raiseFault cause) ∨
    (∃ i, s.dstate = .haltNotice i ∧ s.noticeText[i]? = none ∧ t = (s.setEstate .halted).setDstate .idle) := by
  rcases dispatcherStep_shapes hd h with ⟨_, rfl⟩ | ⟨_, _, rfl⟩ | ⟨_, _, -, -, rfl⟩ | ⟨_, _, -, -, rfl⟩ | ⟨_, -, rfl⟩ | rfl |
    hhalt
  case inr.inr.inr.inr.inr.inl => exact .inr (.inl ⟨_, rfl⟩)
  case inr.inr.inr.inr.inr.inr => exact .inr (.inr hhalt)
  all_goals exact .inl ⟨rfl, rfl, rfl, rfl⟩

/-- A dispatcher step leaves the input alone, or takes one byte in a wait state (R37). -/
theorem dispatcherStep_input_cases {s t : State} (hd : s.dstate ≠ .idle) (h : dispatcherStep s = .next t) :
    (t.consumed = s.consumed ∧ t.input = s.input) ∨
    (∃ b, (s.dstate = .getcWait ∨ s.dstate = .inWait) ∧ s.input = .byte b :: t.input ∧ t.consumed = s.consumed ++ [b]) := by
  rcases dispatcherStep_shapes hd h with ⟨_, rfl⟩ | ⟨_, _, rfl⟩ | ⟨b, _, hds, hin, rfl⟩ | ⟨b, _, hds, hin, rfl⟩ | ⟨_, -, rfl⟩ |
    rfl | ⟨_, -, -, rfl⟩
  case inr.inr.inl => exact .inr ⟨b, .inl hds, hin, rfl⟩
  case inr.inr.inr.inl => exact .inr ⟨b, .inr hds, hin, rfl⟩
  all_goals exact .inl ⟨rfl, rfl⟩

/-- A dispatcher step emits at most one byte (R245). -/
theorem dispatcherStep_output_cases {s t : State} (hd : s.dstate ≠ .idle) (h : dispatcherStep s = .next t) :
    t.output = s.output ∨ ∃ b, t.output = s.output ++ [b] := by
  rcases dispatcherStep_shapes hd h with ⟨_, rfl⟩ | ⟨b, _, rfl⟩ | ⟨_, _, -, -, rfl⟩ | ⟨_, _, -, -, rfl⟩ | ⟨b, -, rfl⟩ | rfl |
    ⟨_, -, -, rfl⟩
  case inr.inl | inr.inr.inr.inr.inl => exact .inr ⟨b, rfl⟩
  all_goals exact .inl rfl

/-! ### Steps -/

/-- `step_cases` in the terms of the claims: the second case is a step at a fetch. -/
theorem step_cases_ready {s t : State} (h : step s = .next t) :
    (s.estate = .running ∧ t = s.takeAbort) ∨
    (s.ReadyToFetch ∧ exec (decode (s.memRead s.pc)) s.passBoundary.fetch = .next t) ∨
    (s.estate = .running ∧ s.abortDue = false ∧ s.dstate ≠ .idle ∧ dispatcherStep s.passBoundary = .next t) := by
  obtain ⟨he, ⟨-, rfl⟩ | ⟨ha, hd, hexec⟩ | ⟨ha, hd, hstep⟩⟩ := step_cases h
  · exact .inl ⟨he, rfl⟩
  · exact .inr (.inl ⟨⟨he, hd, ha⟩, hexec⟩)
  · exact .inr (.inr ⟨he, ha, hd, hstep⟩)

/-- A step leaves the record alone unless it raises a fault, from the state after its fetch or within a service (R201). -/
theorem step_record_cases {s t : State} (h : step s = .next t) :
    (t.estate ≠ .faulted ∧ s.SameRecord t) ∨
    ∃ f cause, (f = s.passBoundary.fetch ∨ f = s.passBoundary) ∧ t = f.raiseFault cause := by
  obtain ⟨he, rfl⟩ | ⟨hready, hexec⟩ | ⟨he, -, hd, hstep⟩ := step_cases_ready h
  · exact .inl ⟨by simp, rfl, rfl, rfl⟩
  · obtain ⟨hest, hrec⟩ | ⟨cause, rfl⟩ := exec_engine_cases hexec
    · exact .inl ⟨by simp [hest, hready.running], hrec⟩
    · exact .inr ⟨_, cause, .inl rfl, rfl⟩
  · obtain ⟨hest, hrec⟩ | ⟨cause, rfl⟩ | ⟨_, -, -, rfl⟩ := dispatcherStep_engine_cases (s := s.passBoundary) hd hstep
    · exact .inl ⟨by simp [hest, he], hrec⟩
    · exact .inr ⟨_, cause, .inr rfl, rfl⟩
    · exact .inl ⟨by simp, rfl, rfl, rfl⟩

/-- The address a storing instruction stores to does not depend on the host's countdown. -/
theorem storeAddress_passBoundary_fetch (i : Instr) (s : State) :
    Instr.storeAddress i s.passBoundary.fetch = Instr.storeAddress i s.fetch := by
  cases i <;> rfl

/-! ### The settled statements -/

/-- Settles O28: an instruction writes its named register, a dispatcher step R0 at the end of GETC and IN. -/
theorem registersChangeOnlyAsNamed : Obligations.RegistersChangeOnlyAsNamed := by
  intro s t r h hr
  obtain ⟨-, rfl⟩ | ⟨hready, hexec⟩ | ⟨-, -, hd, hstep⟩ := step_cases_ready h
  · exact absurd rfl hr
  · exact .inl ⟨hready, writtenReg_of_exec hexec hr⟩
  · obtain ⟨-, -, -, -, hregs, -, -⟩ := serviceFrame_of_dispatcherStep (s := s.passBoundary) hd hstep
    obtain rfl : r = 0 := by_contra fun hne => hr (hregs r hne)
    exact .inr ⟨rfl, dispatcherStep_reg0 (s := s.passBoundary) hd hstep hr⟩

/-- Settles O29: an instruction writes the cell it stores to, and no other step writes one. -/
theorem memoryChangesOnlyAtTheStoreAddress : Obligations.MemoryChangesOnlyAtTheStoreAddress := by
  intro s t a h ha
  obtain ⟨-, rfl⟩ | ⟨hready, hexec⟩ | ⟨-, -, hd, hstep⟩ := step_cases_ready h
  · exact absurd rfl ha
  · rw [← storeAddress_passBoundary_fetch]
    exact ⟨hready, storeAddress_of_exec hexec ha⟩
  · exact absurd ((serviceFrame_of_dispatcherStep (s := s.passBoundary) hd hstep).1 a) ha

/-- Settles O41: the frame of a dispatcher step, and what it may do to R0 and the engine. -/
theorem servicesWriteOnlyWhatTheyMay : Obligations.ServicesWriteOnlyWhatTheyMay := by
  intro s t hd h
  obtain ⟨-, rfl⟩ | ⟨hready, -⟩ | ⟨-, -, -, hstep⟩ := step_cases_ready h
  · exact ⟨fun _ => rfl, rfl, rfl, rfl, fun _ _ => rfl, ⟨rfl, rfl⟩, fun hr => absurd rfl hr, fun _ => .inl rfl,
      fun hrec => absurd ⟨rfl, rfl, rfl⟩ hrec⟩
  · exact absurd hready.idle hd
  · obtain ⟨hmem, hcond, hpc, hir, hregs, htexts, -⟩ := serviceFrame_of_dispatcherStep (s := s.passBoundary) hd hstep
    refine ⟨hmem, hcond, hpc, hir, hregs, htexts, dispatcherStep_reg0 (s := s.passBoundary) hd hstep, ?_⟩
    obtain ⟨hest, hrec⟩ | ⟨_, rfl⟩ | ⟨_, -, -, rfl⟩ := dispatcherStep_engine_cases (s := s.passBoundary) hd hstep
    · exact ⟨fun hne => absurd hest hne, fun hne => absurd hrec hne⟩
    · exact ⟨fun _ => .inr rfl, fun _ => rfl⟩
    · exact ⟨fun _ => .inr rfl, fun hne => absurd ⟨rfl, rfl, rfl⟩ hne⟩

/-- Settles O42: only a dispatcher step emits. -/
theorem outputGrowsByAtMostOneByte : Obligations.OutputGrowsByAtMostOneByte := by
  intro s t h
  obtain ⟨-, rfl⟩ | ⟨-, hexec⟩ | ⟨-, -, hd, hstep⟩ := step_cases_ready h
  · exact ⟨.inl rfl, fun _ => rfl⟩
  · obtain ⟨⟨-, -, hout⟩, -, -⟩ := exec_frame hexec
    exact ⟨.inl hout, fun _ => hout⟩
  · exact ⟨dispatcherStep_output_cases (s := s.passBoundary) hd hstep, fun hidle => absurd hidle hd⟩

/-- Settles O43: only a dispatcher step in a wait state takes a byte, from the front of the port to the end of the consumed. -/
theorem inputIsConsumedInOrder : Obligations.InputIsConsumedInOrder := by
  intro s t h
  have hquiet : t.consumed = s.consumed → t.input = s.input →
      t.consumed.map Delivery.byte ++ t.input = s.consumed.map Delivery.byte ++ s.input ∧
      t.consumed.length ≤ s.consumed.length + 1 ∧ (t.consumed ≠ s.consumed → s.dstate = .getcWait ∨ s.dstate = .inWait) :=
    fun hc hi => ⟨by rw [hc, hi], by rw [hc]; exact Nat.le_succ _, fun hne => absurd hc hne⟩
  obtain ⟨-, rfl⟩ | ⟨-, hexec⟩ | ⟨-, -, hd, hstep⟩ := step_cases_ready h
  · exact hquiet rfl rfl
  · obtain ⟨⟨hc, hi, -⟩, -, -⟩ := exec_frame hexec
    exact hquiet hc hi
  · obtain ⟨hc, hi⟩ | ⟨b, hwait, hi, hc⟩ := dispatcherStep_input_cases (s := s.passBoundary) hd hstep
    · exact hquiet hc hi
    · rw [State.passBoundary_input] at hi
      rw [State.passBoundary_consumed] at hc
      exact ⟨by simp [hc, hi], by simp [hc], fun _ => hwait⟩

/-- Settles O46: a step into FAULTED is a raised fault, which writes the record, the engine and the dispatcher alone. -/
theorem faultsArePrecise : Obligations.FaultsArePrecise := by
  intro s t h hf
  obtain ⟨hne, -⟩ | ⟨f, cause, hwhere, rfl⟩ := step_record_cases h
  · exact absurd hf hne
  · have hcode : cause.code = 0x1#4 ∨ cause.code = 0x2#4 ∨ cause.code = 0x3#4 ∨ cause.code = 0x4#4 := by
      cases cause <;> simp [FaultCause.code]
    obtain rfl | rfl := hwhere <;>
      exact ⟨fun _ => rfl, rfl, fun _ => rfl, ⟨rfl, rfl, rfl⟩, rfl, rfl, rfl, hcode⟩

/-- Settles O49: no abort, instruction or fault leaves HALTED, so it is the dispatcher's last notice step. -/
theorem haltedIsReachedOnlyThroughHalt : Obligations.HaltedIsReachedOnlyThroughHalt := by
  intro s t h hhalted
  obtain ⟨-, rfl⟩ | ⟨hready, hexec⟩ | ⟨he, -, hd, hstep⟩ := step_cases_ready h
  · cases hhalted
  · obtain ⟨hest, -⟩ | ⟨_, rfl⟩ := exec_engine_cases hexec
    · exact absurd (hhalted.symm.trans hest) (by simp [hready.running])
    · cases hhalted
  · obtain ⟨hest, -⟩ | ⟨_, rfl⟩ | ⟨i, hds, htext, rfl⟩ := dispatcherStep_engine_cases (s := s.passBoundary) hd hstep
    · exact absurd (hhalted.symm.trans hest) (by simp [he])
    · cases hhalted
    · exact ⟨⟨i, hds, List.getElem?_eq_none_iff.1 htext⟩, rfl, rfl, rfl, fun _ => rfl, fun _ => rfl, ⟨rfl, rfl, rfl⟩,
        rfl, rfl, rfl⟩

/-- Settles O52: a step starts in RUNNING, and writes the record by raising a fault only. -/
theorem faultRecordIsWrittenOnlyOnFault : Obligations.FaultRecordIsWrittenOnlyOnFault := by
  intro s t h
  refine ⟨(step_cases h).1, fun hne => ?_⟩
  obtain ⟨-, hrec⟩ | ⟨f, cause, -, rfl⟩ := step_record_cases h
  · exact absurd hrec hne
  · rfl

/-- Settles O31: the fetch overwrites `ir`. -/
theorem fetchOverwritesTheInstructionRegister : Obligations.FetchOverwritesTheInstructionRegister := by
  intro s w hready
  have hready' : (s.setIr w).ReadyToFetch := ⟨hready.running, hready.idle, hready.noAbort⟩
  exact (step_of_fetch hready').trans (step_of_fetch hready).symm

end Sys2Proof.Machine

/-! SUPPORT for 60_exceptions.md and 70_reset_and_hazards.md. When there is a step, the host's abort and its schedule, a store
into the next instruction, and reset (R204, R240 to R246). -/

namespace Sys2Proof.Machine

/-! ### When there is a step -/

/-- Every instruction has a next state. -/
theorem exec_next (i : Instr) (s : State) : ∃ t, exec i s = .next t := by
  cases i <;> exact ⟨_, rfl⟩

/-- The dispatcher waits exactly in its two wait states with nothing at the port (R161). -/
theorem State.blocked_iff (s : State) : s.blocked = true ↔ (s.dstate = .getcWait ∨ s.dstate = .inWait) ∧ s.input = [] := by
  unfold State.blocked
  cases s.dstate <;> simp

/-- A dispatcher that does not wait has a next state; one that waits answers the named stop (R161). -/
theorem dispatcherStep_next_or_blocked (s : State) :
    (s.blocked = false ∧ ∃ t, dispatcherStep s = .next t) ∨ (s.blocked = true ∧ dispatcherStep s = .fault .awaitingInput) := by
  unfold dispatcherStep State.blocked
  cases s.dstate with
  | getcWait =>
    obtain ⟨hi, hr⟩ | ⟨b, rest, hi, hr⟩ | ⟨rest, hi, hr⟩ := s.receive_cases <;> simp [stepGetcWait, hi, hr]
  | inWait =>
    obtain ⟨hi, hr⟩ | ⟨b, rest, hi, hr⟩ | ⟨rest, hi, hr⟩ := s.receive_cases <;> simp [stepInWait, hi, hr]
  | idle | outEmit | inEcho => exact .inl ⟨rfl, _, rfl⟩
  | putsScan | putspLo | putspHi =>
    refine .inl ⟨rfl, ?_⟩
    simp only [stepPutsScan, stepPutspLo, stepPutspHi]
    split <;> exact ⟨_, rfl⟩
  | inPrompt i =>
    refine .inl ⟨rfl, ?_⟩
    simp only [stepInPrompt]
    split <;> exact ⟨_, rfl⟩
  | haltNotice i =>
    refine .inl ⟨rfl, ?_⟩
    simp only [stepHaltNotice]
    split <;> exact ⟨_, rfl⟩

/-- An abort that is due is due at once or in an unanswered wait (R204, R205). -/
theorem State.abortDue_iff (s : State) : s.abortDue = true ↔ ∃ n, s.abortAfter = some n ∧ (n = 0 ∨ s.blocked = true) := by
  unfold State.abortDue
  cases s.abortAfter <;> simp

theorem State.abortDue_of_none {s : State} (h : s.abortAfter = none) : s.abortDue = false := by
  unfold State.abortDue
  rw [h]

/-- A RUNNING machine steps, or waits with no abort to come and answers the named stop (R245, R246). -/
theorem step_next_or_waits {s : State} (he : s.estate = .running) :
    (∃ t, step s = .next t) ∨ (s.blocked = true ∧ s.abortAfter = none ∧ step s = .fault .awaitingInput) := by
  by_cases ha : s.abortDue = true
  · exact .inl ⟨_, step_of_abortDue he ha⟩
  have ha : s.abortDue = false := by simpa using ha
  by_cases hd : s.dstate = .idle
  · rw [step_of_fetch ⟨he, hd, ha⟩]
    exact .inl (exec_next _ _)
  rw [step_of_service he ha hd]
  obtain ⟨-, hnext⟩ | ⟨hblocked, hstop⟩ := dispatcherStep_next_or_blocked s.passBoundary
  · exact .inl hnext
  · have hnone : s.abortAfter = none := by
      by_contra hsome
      obtain ⟨n, hn⟩ := Option.ne_none_iff_exists'.1 hsome
      exact Bool.false_ne_true (ha.symm.trans (s.abortDue_iff.2 ⟨n, hn, .inr hblocked⟩))
    exact .inr ⟨hblocked, hnone, hstop⟩

/-- In an unanswered wait with no abort to come there is no step. -/
theorem step_of_waits {s : State} (he : s.estate = .running) (hb : s.blocked = true) (ha : s.abortAfter = none) :
    step s = .fault .awaitingInput := by
  have hd : s.dstate ≠ .idle := by
    obtain ⟨h | h, -⟩ := s.blocked_iff.1 hb <;> simp [h]
  rw [step_of_service he (State.abortDue_of_none ha) hd]
  obtain ⟨hfree, -⟩ | ⟨-, hstop⟩ := dispatcherStep_next_or_blocked s.passBoundary
  · exact absurd (hb.symm.trans hfree) (by simp)
  · exact hstop

/-! ### The abort's schedule (R204; log 7) -/

/-- A step that is not an abort counts one boundary. -/
theorem step_abortAfter {s t : State} (h : step s = .next t) (ha : s.abortDue = false) :
    t.abortAfter = s.abortAfter.map (· - 1) := by
  obtain ⟨-, ⟨hdue, -⟩ | ⟨-, -, hexec⟩ | ⟨-, hd, hstep⟩⟩ := step_cases h
  · exact absurd (ha.symm.trans hdue) (by simp)
  · exact (exec_frame hexec).2.2
  · obtain ⟨-, -, -, -, -, -, habort⟩ := serviceFrame_of_dispatcherStep (s := s.passBoundary) hd hstep
    exact habort

@[simp] theorem State.scheduleAbort_dstate (s : State) (n : Nat) : (s.scheduleAbort n).dstate = s.dstate := rfl
@[simp] theorem State.scheduleAbort_input (s : State) (n : Nat) : (s.scheduleAbort n).input = s.input := rfl
@[simp] theorem State.scheduleAbort_promptText (s : State) (n : Nat) : (s.scheduleAbort n).promptText = s.promptText := rfl
@[simp] theorem State.scheduleAbort_noticeText (s : State) (n : Nat) : (s.scheduleAbort n).noticeText = s.noticeText := rfl

theorem dispatch_scheduleAbort (code : BitVec 8) (s : State) (n : Nat) :
    dispatch code (s.scheduleAbort n) = (dispatch code s).scheduleAbort n := by
  unfold dispatch
  cases serviceOf code with
  | none => rfl
  | some svc => cases svc <;> rfl

/-- No instruction depends on the host's schedule. -/
theorem exec_scheduleAbort {i : Instr} {s t : State} (n : Nat) (h : exec i s = .next t) :
    exec i (s.scheduleAbort n) = .next (t.scheduleAbort n) := by
  cases i <;> cases h
  case trap | trapGetc | trapOut | trapPuts | trapIn | trapPutsp | trapHalt =>
    exact congrArg Host.Outcome.next (dispatch_scheduleAbort _ s n)
  all_goals rfl

theorem State.receive_scheduleAbort (s : State) (n : Nat) :
    (s.scheduleAbort n).receive = s.receive.map (Prod.map id (·.scheduleAbort n)) := by
  unfold State.receive
  rw [State.scheduleAbort_input]
  cases s.input with
  | nil => rfl
  | cons d rest => cases d <;> rfl

/-- No dispatcher step depends on the host's schedule. -/
theorem dispatcherStep_scheduleAbort (s : State) (n : Nat) :
    dispatcherStep (s.scheduleAbort n) = onNext (·.scheduleAbort n) (dispatcherStep s) := by
  unfold dispatcherStep
  rw [State.scheduleAbort_dstate]
  cases s.dstate with
  | idle | outEmit | inEcho => rfl
  | getcWait =>
    simp only [stepGetcWait, State.receive_scheduleAbort]
    obtain _ | ⟨_ | _, u⟩ := s.receive <;> rfl
  | inWait =>
    simp only [stepInWait, State.receive_scheduleAbort]
    obtain _ | ⟨_ | _, u⟩ := s.receive <;> rfl
  | putsScan | putspLo | putspHi =>
    simp only [stepPutsScan, stepPutspLo, stepPutspHi, apply_ite (onNext _)]
    rfl
  | inPrompt i =>
    simp only [stepInPrompt, State.scheduleAbort_promptText]
    cases s.promptText[i]? <;> rfl
  | haltNotice i =>
    simp only [stepHaltNotice, State.scheduleAbort_noticeText]
    cases s.noticeText[i]? <;> rfl

/-- A step of a machine with no abort to come is the same step with an abort scheduled for later, one boundary nearer. -/
theorem step_scheduleAbort {s t : State} (n : Nat) (hnone : s.abortAfter = none) (h : step s = .next t) :
    step (s.scheduleAbort (n + 1)) = .next (t.scheduleAbort n) := by
  have hfree : s.blocked = false := by
    by_contra hb
    rw [step_of_waits (step_cases h).1 (by simpa using hb) hnone] at h
    cases h
  have hdue : (s.scheduleAbort (n + 1)).abortDue = false := hfree
  have hpass : (s.scheduleAbort (n + 1)).passBoundary = s.passBoundary.scheduleAbort n := rfl
  obtain ⟨he, ⟨ha, -⟩ | ⟨-, hd, hexec⟩ | ⟨-, hd, hstep⟩⟩ := step_cases h
  · exact absurd ((State.abortDue_of_none hnone).symm.trans ha) (by simp)
  · calc step (s.scheduleAbort (n + 1)) = exec (decode (s.memRead s.pc)) (s.passBoundary.fetch.scheduleAbort n) :=
          step_of_fetch ⟨he, hd, hdue⟩
      _ = .next (t.scheduleAbort n) := exec_scheduleAbort n hexec
  · calc step (s.scheduleAbort (n + 1)) = dispatcherStep (s.passBoundary.scheduleAbort n) :=
          step_of_service (s := s.scheduleAbort (n + 1)) he hdue hd
      _ = .next (t.scheduleAbort n) := by rw [dispatcherStep_scheduleAbort, hstep]; rfl

/-! ### Runs -/

theorem steps_of_step {s t : State} (k : Nat) (h : step s = .next t) : steps (k + 1) s = steps k t := by
  rw [steps, h]

/-- The first step of a run of one step or more. -/
theorem step_of_steps {s t : State} {k : Nat} (h : steps (k + 1) s = .next t) :
    ∃ u, step s = .next u ∧ steps k u = .next t := by
  rw [steps] at h
  cases hs : step s with
  | next u => rw [hs] at h; exact ⟨u, rfl, h⟩
  | fault f => rw [hs] at h; cases h
  | refused r => rw [hs] at h; cases h

/-! ### The settled statements: stops and aborts -/

/-- Settles O47: the engine state alone decides, and a run of one step or more needs a first step. -/
theorem terminalStatesHaveNoStep : Obligations.TerminalStatesHaveNoStep := by
  intro s hne
  refine ⟨?_, fun k t hrun => ?_⟩
  · unfold step
    cases he : s.estate with
    | running => exact absurd he hne
    | halted | faulted | aborted => rfl
  · obtain ⟨u, hstep, -⟩ := step_of_steps hrun
    exact hne (step_cases hstep).1

/-- Settles O48: `step_next_or_waits`, and conversely the wait has no step. -/
theorem onlyAnUnansweredWaitHasNoStep : Obligations.OnlyAnUnansweredWaitHasNoStep := by
  intro s he
  refine ⟨⟨fun hno => ?_, ?_⟩, fun hno => ?_⟩
  · obtain hnext | ⟨hb, ha, -⟩ := step_next_or_waits he
    · exact absurd hnext hno
    · obtain ⟨hwait, hin⟩ := s.blocked_iff.1 hb
      exact ⟨hwait, hin, ha⟩
  · rintro ⟨hwait, hin, ha⟩ ⟨t, h⟩
    rw [step_of_waits he (s.blocked_iff.2 ⟨hwait, hin⟩) ha] at h
    cases h
  · obtain hnext | ⟨-, -, hstop⟩ := step_next_or_waits he
    · exact absurd hnext hno
    · exact hstop

/-- Settles O50: the due abort is the step taken, and every other step counts a boundary. -/
theorem abortChangesOnlyTheEngineState : Obligations.AbortChangesOnlyTheEngineState := by
  refine ⟨fun s n he hn hwhen => ⟨?_, rfl⟩, fun s t h ha => step_abortAfter h ha⟩
  have hdue : s.abortDue = true := s.abortDue_iff.2 ⟨n, hn, hwhen.imp_right s.blocked_iff.2⟩
  exact step_of_abortDue he hdue

/-- Settles O51: with the abort scheduled the steps are the same ones until the countdown ends. -/
theorem abortMayLandAfterAnyStep : Obligations.AbortMayLandAfterAnyStep := by
  intro s t n
  induction n generalizing s with
  | zero =>
    intro _ h ht
    cases h
    exact steps_of_step 0 (step_of_abortDue (s := t.scheduleAbort 0) ht rfl)
  | succ n ih =>
    intro hnone h ht
    obtain ⟨u, hstep, hrun⟩ := step_of_steps h
    have hu : u.abortAfter = none := by rw [step_abortAfter hstep (State.abortDue_of_none hnone), hnone]; rfl
    rw [steps_of_step (n + 1) (step_scheduleAbort n hnone hstep)]
    exact ih u hu hrun ht

/-! ### The settled statements: the next fetch and reset -/

/-- With a step to go before the abort, and no unanswered wait, it is not due (R204). -/
theorem State.abortDue_of_noAbortFor {s : State} {k : Nat} (h : s.NoAbortFor (k + 1)) (hfree : s.blocked = false) :
    s.abortDue = false := by
  by_contra hdue
  obtain ⟨n, hn, rfl | hb⟩ := s.abortDue_iff.1 (by simpa using hdue)
  · exact Nat.not_succ_le_zero k (h 0 hn)
  · exact absurd (hfree.symm.trans hb) (by simp)

/-- Passing a boundary uses up one step of the premise. -/
theorem State.noAbortFor_of_map {s t : State} {k : Nat} (h : s.NoAbortFor (k + 1))
    (ht : t.abortAfter = s.abortAfter.map (· - 1)) : t.NoAbortFor k := by
  intro n hn
  rw [ht] at hn
  obtain ⟨m, hm, rfl⟩ := Option.map_eq_some_iff.1 hn
  have := h m hm
  omega

theorem State.blocked_of_idle {s : State} (h : s.dstate = .idle) : s.blocked = false := by
  unfold State.blocked
  rw [h]

/-- Settles O30: the store is the step's whole effect on memory, and the next fetch reads the cell it wrote. -/
theorem storeIsSeenByTheNextFetch : Obligations.StoreIsSeenByTheNextFetch := by
  intro s sr hready hno hsrc haddr
  rw [← storeAddress_passBoundary_fetch] at haddr
  have hstep : step s = .next (s.passBoundary.fetch.memWrite (s.pc + 1#16) (s.reg sr)) :=
    (step_of_fetch hready).trans (exec_of_store hsrc haddr)
  generalize ht : s.passBoundary.fetch.memWrite (s.pc + 1#16) (s.reg sr) = t at hstep
  have hready' : t.ReadyToFetch := by
    subst ht
    exact ⟨hready.running, hready.idle,
      State.abortDue_of_noAbortFor (State.noAbortFor_of_map hno rfl) (State.blocked_of_idle hready.idle)⟩
  have hpc : t.pc = s.pc + 1#16 := by subst ht; rfl
  have hword : t.memRead t.pc = s.reg sr := by
    rw [hpc, ← ht]
    exact State.memRead_memWrite_self _ _ _
  have hnext : t.pc + 1#16 = s.pc + 2#16 := by rw [hpc, BitVec.add_assoc]; rfl
  refine ⟨t, hstep, hready', hpc, ?_⟩
  rw [step_of_fetch hready', hword, ← hword, ← hnext]
  rfl

/-- A table row of 16 bits is the word itself. -/
theorem tableWord_toNat (w : Word) : tableWord 16 w.toNat = w := by
  rw [tableWord, Nat.mod_eq_of_lt w.isLt, BitVec.ofNat_toNat, BitVec.setWidth_eq]

/-- Settles O54: the placed word is at `pc`, and the state is one about to fetch. -/
theorem placedWordRunsNext : Obligations.PlacedWordRunsNext := by
  intro s w
  have hready : (s.withFetchWord 16 w.toNat).ReadyToFetch := ⟨rfl, rfl, rfl⟩
  have hword : (s.withFetchWord 16 w.toNat).memRead s.pc = w :=
    (State.memRead_memWrite_self s s.pc _).trans (tableWord_toNat w)
  have hothers : s.SameMemBut s.pc (s.withFetchWord 16 w.toNat) := fun _ ha => State.memRead_memWrite_ne s _ ha
  have hstep : step (s.withFetchWord 16 w.toNat) = exec (decode w) (s.withFetchWord 16 w.toNat).passBoundary.fetch :=
    (step_of_fetch hready).trans (congrArg (fun v => exec (decode v) _) hword)
  have hdecode : decodeTableWord 16 w.toNat = some (decode w) := by
    rw [decodeTableWord, if_pos le_rfl, tableWord_toNat, decodeBytes, wordOfBytes_bytesOfWord]
  exact ⟨hready, hdecode, _, hstep, hword, rfl, fun _ => rfl, hothers⟩

/-- Settles O55: `launch` is `State.resetWith` of what the loader leaves. -/
theorem resetLeavesTheListedState : Obligations.ResetLeavesTheListedState := by
  intro p image
  refine ⟨fun m hm => ⟨State.resetWith p m, by rw [launch, hm], ?_⟩, fun f hf => by rw [launch, hf]⟩
  exact ⟨rfl, rfl, fun _ => rfl, rfl, rfl, rfl, rfl, rfl, rfl, rfl, rfl, rfl, rfl, rfl, rfl⟩

/-- A BR that selects no flag is never taken (R120). -/
theorem exec_br_zero (off : BitVec 9) (s : State) : exec (.br 0#3 off) s = .next (s.setPc s.pc) := by
  rw [exec_br]
  simp [branchTaken]

/-- Settles O58: 0x0000 is a BR that selects no flag. -/
theorem unloadedEntryIsANoOp : Obligations.UnloadedEntryIsANoOp := by
  intro p image s h hzero hno
  obtain ⟨m, -, rfl⟩ := launch_eq_ok h
  have hdue : (State.resetWith p m).abortDue = false := by
    by_contra hdue
    obtain ⟨n, hn, rfl | hb⟩ := (State.abortDue_iff _).1 (by simpa using hdue)
    · exact hno hn
    · cases hb
  have hstep : step (State.resetWith p m) = exec (decode 0x0000#16) (State.resetWith p m).passBoundary.fetch :=
    hzero ▸ step_of_fetch ⟨rfl, rfl, hdue⟩
  exact ⟨_, hstep.trans (exec_br_zero _ _), rfl, hzero, fun _ => rfl, rfl, fun _ => rfl, ⟨rfl, rfl⟩, ⟨rfl, rfl, rfl⟩,
    ⟨rfl, rfl, rfl⟩⟩

end Sys2Proof.Machine

/-! SUPPORT for 43_trap.md and 44_illegal.md. A TRAP's dispatch and the raised faults, and then a service from its fetch to its
end as one run: `State.served` says what its steps have done so far (R150 to R160, R200, R201, R245). -/

namespace Sys2Proof.Machine

/-! ### TRAP and the faults -/

/-- Each TRAP form hands its code to the dispatcher (R150). -/
theorem exec_of_trapCode {i : Instr} {code : BitVec 8} (s : State) (h : Instr.trapCode i = some code) :
    exec i s = .next (dispatch code s) := by
  cases i <;> cases h <;> rfl

theorem dispatch_of_service {code : BitVec 8} {svc : Service} (s : State) (h : serviceOf code = some svc) :
    dispatch code s = s.setDstate (Service.initialState svc s) := by
  rw [dispatch, h]
  rfl

theorem dispatch_of_none {code : BitVec 8} (s : State) (h : serviceOf code = none) :
    dispatch code s = s.raiseFault .illegalTrap := by
  rw [dispatch, h]

/-- The codes below 0x20 and above 0x25 have no service (R159). -/
theorem serviceOf_eq_none_of_range {code : BitVec 8} (h : code.toNat < 0x20 ∨ 0x25 < code.toNat) : serviceOf code = none := by
  rw [serviceOf_eq_none_iff, isServiceCode]
  simp only [Bool.and_eq_false_iff, decide_eq_false_iff_not]
  omega

/-- A service's start leaves the engine and the record alone. -/
theorem dispatch_engine {code : BitVec 8} (s : State) (h : 0x20 ≤ code.toNat ∧ code.toNat ≤ 0x25) :
    (dispatch code s).estate = s.estate ∧ s.SameRecord (dispatch code s) := by
  obtain ⟨svc, -, heq⟩ | ⟨hnone, -⟩ := dispatch_cases code s
  · rw [heq]
    exact ⟨rfl, rfl, rfl, rfl⟩
  · rw [serviceOf_eq_none_iff, isServiceCode, decide_eq_true h.1, decide_eq_true h.2] at hnone
    cases hnone

/-- Raising a fault has exactly the effect that `StopsByFault` names (R201). -/
theorem stopsByFault_raiseFault (cause : FaultCause) (s : State) : StopsByFault cause.code s (s.raiseFault cause) :=
  ⟨rfl, rfl, rfl, rfl, rfl, fun _ => rfl, rfl, rfl, rfl, fun _ => rfl, ⟨rfl, rfl, rfl⟩, ⟨rfl, rfl⟩, rfl⟩

/-- A step that raises a fault from a fetch: the record names the address A and the word there. -/
theorem step_of_fetch_fault {s : State} {cause : FaultCause} (hready : s.ReadyToFetch)
    (h : exec (decode (s.memRead s.pc)) s.passBoundary.fetch = .next (s.passBoundary.fetch.raiseFault cause)) :
    ∃ t, step s = .next t ∧ t.estate = .faulted ∧ t.faultCause = cause.code ∧ t.faultPc = s.pc ∧ t.faultIr = s.memRead s.pc ∧
      t.pc = s.pc + 1#16 ∧ t.dstate = .idle ∧ s.SameRegs t ∧ t.cond = s.cond ∧ s.SameMem t ∧ s.SameStreams t ∧
      step t = .fault .engineFaulted :=
  ⟨_, (step_of_fetch hready).trans h, rfl, rfl, BitVec.add_sub_cancel s.pc 1#16, rfl, rfl, rfl, fun _ => rfl, rfl, fun _ => rfl,
    ⟨rfl, rfl, rfl⟩, rfl⟩

/-! ### What a service has done so far -/

/-- `s` after `k` steps of a service that emitted `bs` and left the dispatcher in `d`. -/
def State.served (s : State) (k : Nat) (bs : List Byte) (d : DState) : State :=
  { s with output := s.output ++ bs, dstate := d, abortAfter := s.abortAfter.map (· - k) }

@[simp] theorem State.served_served (s : State) (j k : Nat) (bs cs : List Byte) (d e : DState) :
    (s.served j bs d).served k cs e = s.served (j + k) (bs ++ cs) e := by
  simp [State.served, Function.comp_def, Nat.sub_sub]

theorem State.served_zero {s : State} {d : DState} (h : s.dstate = d) : s.served 0 [] d = s := by
  subst h
  simp [State.served]

theorem State.setDstate_passBoundary (s : State) (d : DState) : s.passBoundary.setDstate d = s.served 1 [] d := by
  simp [State.served, State.passBoundary, State.setDstate]

theorem State.NoAbortFor.served {s : State} {j k : Nat} (h : s.NoAbortFor (j + k)) (bs : List Byte) (d : DState) :
    (s.served j bs d).NoAbortFor k := by
  intro n hn
  obtain ⟨m, hm, rfl⟩ := Option.map_eq_some_iff.1 hn
  have := h m hm
  omega

theorem State.NoAbortFor.mono {s : State} {j k : Nat} (h : s.NoAbortFor k) (hjk : j ≤ k) : s.NoAbortFor j :=
  fun n hn => hjk.trans (h n hn)

/-- The premise of a run, from its fetch, is enough for what is left of it after `j` steps. -/
theorem State.NoAbortFor.served_fetch {s : State} {j k n : Nat} (h : s.NoAbortFor n) (hn : j + k ≤ n) (bs : List Byte)
    (d : DState) : (s.fetch.served j bs d).NoAbortFor k :=
  State.NoAbortFor.served (s := s.fetch) (h.mono hn) bs d

/-- From the fetch on, a service leaves what `ServiceKeeps` names (R160). -/
theorem serviceKeeps_served (s : State) (k : Nat) (bs : List Byte) (d : DState) : ServiceKeeps s (s.fetch.served k bs d) :=
  ⟨rfl, rfl, rfl, fun _ _ => rfl, fun _ => rfl, rfl, rfl⟩

/-! ### Runs in parts -/

/-- A run goes on from where its first part ends. -/
theorem steps_add {s t : State} {j : Nat} (k : Nat) (h : steps j s = .next t) : steps (j + k) s = steps k t := by
  induction j generalizing s with
  | zero =>
    cases h
    rw [Nat.zero_add]
  | succ j ih =>
    obtain ⟨u, hstep, hrun⟩ := step_of_steps h
    rw [Nat.add_right_comm, steps_of_step _ hstep, ih hrun]

theorem steps_one {s t : State} (h : step s = .next t) : steps 1 s = .next t := steps_of_step 0 h

/-- A loop of `n` rounds of `m` steps each, `f k` being the state before round `k`. -/
theorem steps_of_rounds {n m : Nat} {f : Nat → State} (h : ∀ k, k < n → steps m (f k) = .next (f (k + 1))) :
    steps (m * n) (f 0) = .next (f n) := by
  induction n with
  | zero => rfl
  | succ n ih => rw [Nat.mul_succ, steps_add m (ih fun k hk => h k (Nat.lt_succ_of_lt hk)), h n (Nat.lt_succ_self n)]

/-! ### The steps of a service -/

theorem State.receive_of_byte {s : State} {b : Byte} {rest : List Delivery} (h : s.input = .byte b :: rest) :
    s.receive = some (.byte b, s.consume b rest) := by
  rw [State.receive, h]

theorem State.receive_of_eof {s : State} {rest : List Delivery} (h : s.input = .endOfInput :: rest) :
    s.receive = some (.endOfInput, s) := by
  rw [State.receive, h]

/-- The TRAP's own step: the fetch, and its service waits to run (R150, R152). -/
theorem step_trap {s : State} {i : Instr} {code : BitVec 8} {svc : Service} (hready : s.ReadyToFetch)
    (hdec : decode (s.memRead s.pc) = i) (hi : Instr.trapCode i = some code) (hsvc : serviceOf code = some svc) :
    step s = .next (s.fetch.served 1 [] (Service.initialState svc s)) := by
  have hstart : Service.initialState svc s.passBoundary.fetch = Service.initialState svc s := by cases svc <;> rfl
  calc step s = exec i s.passBoundary.fetch := hdec ▸ step_of_fetch hready
    _ = .next (s.passBoundary.fetch.setDstate (Service.initialState svc s)) := by
      rw [exec_of_trapCode _ hi, dispatch_of_service _ hsvc, hstart]
    _ = .next (s.fetch.served 1 [] (Service.initialState svc s)) := congrArg _ (s.fetch.setDstate_passBoundary _)

section
variable {s : State} (he : s.estate = .running) (ha : s.NoAbortFor 1)
include he ha

/-- With no abort at this boundary, a dispatcher that is neither idle nor kept waiting takes its step. -/
theorem step_serving (hd : s.dstate ≠ .idle) (hfree : s.blocked = false) : step s = dispatcherStep s.passBoundary :=
  step_of_service he (State.abortDue_of_noAbortFor ha hfree) hd

/-- GETC_WAIT takes the byte at the port to R0 and ends the service (R153). -/
theorem step_getcWait_byte {b : Byte} {rest : List Delivery} (hd : s.dstate = .getcWait) (hin : s.input = .byte b :: rest) :
    step s = .next (((s.consume b rest).setReg serviceReg (zextByte b)).served 1 [] .idle) := by
  rw [step_serving he ha (by simp [hd]) (by simp [State.blocked, hd, hin]), ← State.setDstate_passBoundary, dispatcherStep,
    State.passBoundary_dstate, hd]
  simp only [stepGetcWait, State.receive_of_byte (s := s.passBoundary) hin]
  rfl

/-- GETC_WAIT at the end of input (R153). -/
theorem step_getcWait_eof {rest : List Delivery} (hd : s.dstate = .getcWait) (hin : s.input = .endOfInput :: rest) :
    step s = .next (s.passBoundary.raiseFault .inputEof) := by
  rw [step_serving he ha (by simp [hd]) (by simp [State.blocked, hd, hin]), dispatcherStep, State.passBoundary_dstate, hd]
  simp only [stepGetcWait, State.receive_of_eof (s := s.passBoundary) hin]

/-- OUT_EMIT (R154). -/
theorem step_outEmit (hd : s.dstate = .outEmit) : step s = .next (s.served 1 [lowByte (s.reg serviceReg)] .idle) := by
  rw [step_serving he ha (by simp [hd]) (by simp [State.blocked, hd]), dispatcherStep, State.passBoundary_dstate, hd]
  rfl

/-- PUTS_SCAN at a zero cell (R155). -/
theorem step_putsScan_zero {a : Word} (hd : s.dstate = .putsScan a) (h : s.memRead a = 0x0000#16) :
    step s = .next (s.served 1 [] .idle) := by
  rw [step_serving he ha (by simp [hd]) (by simp [State.blocked, hd]), ← State.setDstate_passBoundary, dispatcherStep,
    State.passBoundary_dstate, hd]
  exact if_pos h

/-- PUTS_SCAN at any other cell (R155). -/
theorem step_putsScan_char {a : Word} (hd : s.dstate = .putsScan a) (h : s.memRead a ≠ 0x0000#16) :
    step s = .next (s.served 1 [lowByte (s.memRead a)] (.putsScan (a + 1#16))) := by
  rw [step_serving he ha (by simp [hd]) (by simp [State.blocked, hd]), dispatcherStep, State.passBoundary_dstate, hd]
  exact if_neg h

/-- IN_PROMPT within the prompt (R156). -/
theorem step_inPrompt_byte {i : Nat} {b : Byte} (hd : s.dstate = .inPrompt i) (hb : s.promptText[i]? = some b) :
    step s = .next (s.served 1 [b] (.inPrompt (i + 1))) := by
  rw [step_serving he ha (by simp [hd]) (by simp [State.blocked, hd]), dispatcherStep, State.passBoundary_dstate, hd]
  simp only [stepInPrompt, State.passBoundary_promptText, hb]
  rfl

/-- IN_PROMPT past the prompt (R156). -/
theorem step_inPrompt_end {i : Nat} (hd : s.dstate = .inPrompt i) (hb : s.promptText[i]? = none) :
    step s = .next (s.served 1 [] .inWait) := by
  rw [step_serving he ha (by simp [hd]) (by simp [State.blocked, hd]), ← State.setDstate_passBoundary, dispatcherStep,
    State.passBoundary_dstate, hd]
  simp only [stepInPrompt, State.passBoundary_promptText, hb]

/-- IN_WAIT takes the byte at the port to the echo (R156). -/
theorem step_inWait_byte {b : Byte} {rest : List Delivery} (hd : s.dstate = .inWait) (hin : s.input = .byte b :: rest) :
    step s = .next ((s.consume b rest).served 1 [] (.inEcho b)) := by
  rw [step_serving he ha (by simp [hd]) (by simp [State.blocked, hd, hin]), ← State.setDstate_passBoundary, dispatcherStep,
    State.passBoundary_dstate, hd]
  simp only [stepInWait, State.receive_of_byte (s := s.passBoundary) hin]
  rfl

/-- IN_WAIT at the end of input (R156). -/
theorem step_inWait_eof {rest : List Delivery} (hd : s.dstate = .inWait) (hin : s.input = .endOfInput :: rest) :
    step s = .next (s.passBoundary.raiseFault .inputEof) := by
  rw [step_serving he ha (by simp [hd]) (by simp [State.blocked, hd, hin]), dispatcherStep, State.passBoundary_dstate, hd]
  simp only [stepInWait, State.receive_of_eof (s := s.passBoundary) hin]

/-- IN_ECHO (R156). -/
theorem step_inEcho {b : Byte} (hd : s.dstate = .inEcho b) :
    step s = .next ((s.setReg serviceReg (zextByte b)).served 1 [b] .idle) := by
  rw [step_serving he ha (by simp [hd]) (by simp [State.blocked, hd]), dispatcherStep, State.passBoundary_dstate, hd]
  rfl

/-- PUTSP_LO at a zero low byte (R157). -/
theorem step_putspLo_zero {a : Word} (hd : s.dstate = .putspLo a) (h : lowByte (s.memRead a) = 0x00#8) :
    step s = .next (s.served 1 [] .idle) := by
  rw [step_serving he ha (by simp [hd]) (by simp [State.blocked, hd]), ← State.setDstate_passBoundary, dispatcherStep,
    State.passBoundary_dstate, hd]
  exact if_pos h

/-- PUTSP_LO at any other low byte (R157). -/
theorem step_putspLo_char {a : Word} (hd : s.dstate = .putspLo a) (h : lowByte (s.memRead a) ≠ 0x00#8) :
    step s = .next (s.served 1 [lowByte (s.memRead a)] (.putspHi a (s.memRead a))) := by
  rw [step_serving he ha (by simp [hd]) (by simp [State.blocked, hd]), dispatcherStep, State.passBoundary_dstate, hd]
  exact if_neg h

/-- PUTSP_HI at a zero high byte (R157). -/
theorem step_putspHi_zero {a c : Word} (hd : s.dstate = .putspHi a c) (h : highByte c = 0x00#8) :
    step s = .next (s.served 1 [] .idle) := by
  rw [step_serving he ha (by simp [hd]) (by simp [State.blocked, hd]), ← State.setDstate_passBoundary, dispatcherStep,
    State.passBoundary_dstate, hd]
  exact if_pos h

/-- PUTSP_HI at any other high byte (R157). -/
theorem step_putspHi_char {a c : Word} (hd : s.dstate = .putspHi a c) (h : highByte c ≠ 0x00#8) :
    step s = .next (s.served 1 [highByte c] (.putspLo (a + 1#16))) := by
  rw [step_serving he ha (by simp [hd]) (by simp [State.blocked, hd]), dispatcherStep, State.passBoundary_dstate, hd]
  exact if_neg h

/-- HALT_NOTICE within the notice (R158). -/
theorem step_haltNotice_byte {i : Nat} {b : Byte} (hd : s.dstate = .haltNotice i) (hb : s.noticeText[i]? = some b) :
    step s = .next (s.served 1 [b] (.haltNotice (i + 1))) := by
  rw [step_serving he ha (by simp [hd]) (by simp [State.blocked, hd]), dispatcherStep, State.passBoundary_dstate, hd]
  simp only [stepHaltNotice, State.passBoundary_noticeText, hb]
  rfl

/-- HALT_NOTICE past the notice (R158). -/
theorem step_haltNotice_end {i : Nat} (hd : s.dstate = .haltNotice i) (hb : s.noticeText[i]? = none) :
    step s = .next ((s.setEstate .halted).served 1 [] .idle) := by
  rw [step_serving he ha (by simp [hd]) (by simp [State.blocked, hd]), ← State.setDstate_passBoundary, dispatcherStep,
    State.passBoundary_dstate, hd]
  simp only [stepHaltNotice, State.passBoundary_noticeText, hb]
  rfl

end

/-! ### Loops of a service -/

/-- The `n` cells from `a` on, wrapping at 0xFFFF (R51). -/
def State.cells (s : State) (a : Word) (n : Nat) : List Word := (List.range n).map fun k => s.memRead (a + BitVec.ofNat 16 k)

theorem State.cells_succ (s : State) (a : Word) (n : Nat) :
    s.cells a (n + 1) = s.cells a n ++ [s.memRead (a + BitVec.ofNat 16 n)] := by
  simp [State.cells, List.range_succ]

theorem addr_add_succ (a : Word) (n : Nat) : a + BitVec.ofNat 16 n + 1#16 = a + BitVec.ofNat 16 (n + 1) := by
  rw [BitVec.ofNat_add, BitVec.add_assoc]

/-- A list that the cells read as is the list of the cells. -/
theorem State.eq_cells {s : State} {a : Word} {cs : List Word}
    (h : ∀ k, (hk : k < cs.length) → s.memRead (a + BitVec.ofNat 16 k) = cs[k]) : cs = s.cells a cs.length := by
  apply List.ext_getElem
  · simp [State.cells]
  · intro k hk _
    simp [State.cells, h k hk]

/-- PUTS over `n` non-zero cells: one byte a step (R155). -/
theorem steps_putsScan {s : State} {a : Word} {n : Nat} (he : s.estate = .running) (hd : s.dstate = .putsScan a)
    (ha : s.NoAbortFor n) (h : ∀ k, k < n → s.memRead (a + BitVec.ofNat 16 k) ≠ 0x0000#16) :
    steps n s = .next (s.served n ((s.cells a n).map lowByte) (.putsScan (a + BitVec.ofNat 16 n))) := by
  have hround : ∀ k, k < n → steps 1 (s.served k ((s.cells a k).map lowByte) (.putsScan (a + BitVec.ofNat 16 k))) =
      .next (s.served (k + 1) ((s.cells a (k + 1)).map lowByte) (.putsScan (a + BitVec.ofNat 16 (k + 1)))) := by
    intro k hk
    have hstep := step_putsScan_char (s := s.served k ((s.cells a k).map lowByte) (.putsScan (a + BitVec.ofNat 16 k))) he
      ((ha.mono (Nat.succ_le_of_lt hk)).served _ _) rfl (h k hk)
    rw [steps_one hstep, State.served_served, addr_add_succ, State.cells_succ, List.map_append]
    rfl
  have hloop := steps_of_rounds hround
  rwa [Nat.one_mul, BitVec.add_zero, State.cells, List.range_zero, List.map_nil, List.map_nil, State.served_zero hd] at hloop

/-- The bytes of a full cell in the order that PUTSP emits them (R157). -/
def cellBytes (c : Word) : List Byte := [lowByte c, highByte c]

/-- PUTSP over one full cell: its low byte, then its high byte (R157). -/
theorem steps_putspLo_cell {s : State} {a : Word} (he : s.estate = .running) (hd : s.dstate = .putspLo a) (ha : s.NoAbortFor 2)
    (hlow : lowByte (s.memRead a) ≠ 0x00#8) (hhigh : highByte (s.memRead a) ≠ 0x00#8) :
    steps 2 s = .next (s.served 2 (cellBytes (s.memRead a)) (.putspLo (a + 1#16))) := by
  have hlo := step_putspLo_char he (ha.mono (by omega)) hd hlow
  have hhi := step_putspHi_char (s := s.served 1 [lowByte (s.memRead a)] (.putspHi a (s.memRead a))) he
    (State.NoAbortFor.served (k := 1) ha _ _) rfl hhigh
  rw [steps_of_step 1 hlo, steps_one hhi, State.served_served]
  rfl

/-- PUTSP over `n` full cells: two steps a cell (R157). -/
theorem steps_putspLo {s : State} {a : Word} {n : Nat} (he : s.estate = .running) (hd : s.dstate = .putspLo a)
    (ha : s.NoAbortFor (2 * n)) (h : ∀ k, k < n → lowByte (s.memRead (a + BitVec.ofNat 16 k)) ≠ 0x00#8 ∧
      highByte (s.memRead (a + BitVec.ofNat 16 k)) ≠ 0x00#8) :
    steps (2 * n) s = .next (s.served (2 * n) ((s.cells a n).flatMap cellBytes) (.putspLo (a + BitVec.ofNat 16 n))) := by
  have hround : ∀ k, k < n →
      steps 2 (s.served (2 * k) ((s.cells a k).flatMap cellBytes) (.putspLo (a + BitVec.ofNat 16 k))) =
      .next (s.served (2 * (k + 1)) ((s.cells a (k + 1)).flatMap cellBytes) (.putspLo (a + BitVec.ofNat 16 (k + 1)))) := by
    intro k hk
    have hno : s.NoAbortFor (2 * k + 2) := ha.mono (by omega)
    have hcell := steps_putspLo_cell (s := s.served (2 * k) ((s.cells a k).flatMap cellBytes) (.putspLo (a + BitVec.ofNat 16 k)))
      he rfl (hno.served _ _) (h k hk).1 (h k hk).2
    rw [hcell, State.served_served, addr_add_succ, State.cells_succ, List.flatMap_append, List.flatMap_singleton]
    rfl
  have hloop := steps_of_rounds hround
  rwa [Nat.mul_zero, BitVec.add_zero, State.cells, List.range_zero, List.map_nil, List.flatMap_nil, State.served_zero hd] at hloop

/-- IN's whole prompt: one byte a step (R156). -/
theorem steps_inPrompt {s : State} (he : s.estate = .running) (hd : s.dstate = .inPrompt 0)
    (ha : s.NoAbortFor s.promptText.length) :
    steps s.promptText.length s = .next (s.served s.promptText.length s.promptText (.inPrompt s.promptText.length)) := by
  have hround : ∀ k, k < s.promptText.length → steps 1 (s.served k (s.promptText.take k) (.inPrompt k)) =
      .next (s.served (k + 1) (s.promptText.take (k + 1)) (.inPrompt (k + 1))) := by
    intro k hk
    have hstep := step_inPrompt_byte (s := s.served k (s.promptText.take k) (.inPrompt k)) he
      ((ha.mono (Nat.succ_le_of_lt hk)).served _ _) rfl (List.getElem?_eq_getElem hk)
    rw [steps_one hstep, State.served_served, ← List.take_append_getElem hk]
  have hloop := steps_of_rounds hround
  rwa [Nat.one_mul, List.take_zero, State.served_zero hd, List.take_length] at hloop

/-- HALT's whole notice: one byte a step (R158). -/
theorem steps_haltNotice {s : State} (he : s.estate = .running) (hd : s.dstate = .haltNotice 0)
    (ha : s.NoAbortFor s.noticeText.length) :
    steps s.noticeText.length s = .next (s.served s.noticeText.length s.noticeText (.haltNotice s.noticeText.length)) := by
  have hround : ∀ k, k < s.noticeText.length → steps 1 (s.served k (s.noticeText.take k) (.haltNotice k)) =
      .next (s.served (k + 1) (s.noticeText.take (k + 1)) (.haltNotice (k + 1))) := by
    intro k hk
    have hstep := step_haltNotice_byte (s := s.served k (s.noticeText.take k) (.haltNotice k)) he
      ((ha.mono (Nat.succ_le_of_lt hk)).served _ _) rfl (List.getElem?_eq_getElem hk)
    rw [steps_one hstep, State.served_served, ← List.take_append_getElem hk]
  have hloop := steps_of_rounds hround
  rwa [Nat.one_mul, List.take_zero, State.served_zero hd, List.take_length] at hloop

/-! ### Words and bytes as the statements write them -/

theorem lowByte_eq_ofNat (c : Word) : lowByte c = BitVec.ofNat 8 c.toNat := by
  rw [BitVec.ofNat_toNat, BitVec.setWidth_eq_extractLsb' (by omega)]
  rfl

theorem zextByte_eq_ofNat (b : Byte) : zextByte b = BitVec.ofNat 16 b.toNat := (BitVec.ofNat_toNat 16 b).symm

/-! ### The settled statements -/

/-- Settles O32: `dispatch` by the code, with what it leaves unchanged. -/
theorem trapStartsTheServiceOfItsCode : Obligations.TrapStartsTheServiceOfItsCode := by
  refine ⟨fun s code => ⟨_, rfl, ?_⟩, fun s => ⟨rfl, rfl, rfl, rfl, rfl, rfl⟩⟩
  obtain ⟨hregs, hmem, hstreams, htexts, -⟩ := dispatch_frame code s
  refine ⟨?_, ?_, ?_, ?_, ?_, ?_, dispatch_engine s, fun hrange => ?_, hregs, dispatch_pc code s, dispatch_cond code s,
    dispatch_ir code s, hmem, hstreams, htexts⟩
  case refine_7 =>
    rw [dispatch_of_none s (serviceOf_eq_none_of_range hrange)]
    exact ⟨rfl, rfl, rfl⟩
  all_goals
    rintro rfl
    rfl

/-- Settles O33: each row is its service's start. -/
theorem serviceInstructionsEnterTheirService : Obligations.ServiceInstructionsEnterTheirService := by
  intro s i d h
  have hstart : exec i s = .next (s.setDstate d) := by
    simp only [List.mem_cons, Prod.mk.injEq, List.not_mem_nil, or_false] at h
    obtain ⟨rfl, rfl⟩ | ⟨rfl, rfl⟩ | ⟨rfl, rfl⟩ | ⟨rfl, rfl⟩ | ⟨rfl, rfl⟩ | ⟨rfl, rfl⟩ := h <;> rfl
  exact ⟨_, hstart, rfl, rfl, fun _ => rfl, rfl, rfl, rfl, fun _ => rfl, ⟨rfl, rfl, rfl⟩, ⟨rfl, rfl⟩, ⟨rfl, rfl, rfl⟩, rfl⟩

/-- Settles O44: the two opcodes decode to the two forms, and each raises its fault. -/
theorem illegalOpcodesRaiseTheirFault : Obligations.IllegalOpcodesRaiseTheirFault :=
  ⟨fun _ => ⟨fun hop => decode_of_rti (Laws.EncodeOpcode.of_field hop),
      fun hop => decode_of_reserved (Laws.EncodeOpcode.of_field hop)⟩,
    fun s => ⟨_, rfl, stopsByFault_raiseFault .illegalRti s⟩, fun s => ⟨_, rfl, stopsByFault_raiseFault .illegalReserved s⟩⟩

/-- Settles O45: each of the three words raises its fault from the state after the fetch. -/
theorem illegalWordsStopTheEngine : Obligations.IllegalWordsStopTheEngine := by
  rintro s cause hready (⟨rfl, hi⟩ | ⟨rfl, hi⟩ | ⟨rfl, code, hrange, hi⟩)
  · exact step_of_fetch_fault (cause := .illegalRti) hready (by rw [hi]; rfl)
  · exact step_of_fetch_fault (cause := .illegalReserved) hready (by rw [hi]; rfl)
  · refine step_of_fetch_fault (cause := .illegalTrap) hready ?_
    rw [hi, exec_of_trapCode _ rfl, dispatch_of_none _ (serviceOf_eq_none_of_range hrange)]

/-- Settles O34: the TRAP's step and GETC_WAIT's. -/
theorem getcReadsOneByte : Obligations.GetcReadsOneByte := by
  intro s hready hno hdec
  have htrap := step_trap hready hdec rfl rfl
  have hno' : (s.fetch.served 1 [] .getcWait).NoAbortFor 1 := hno.served_fetch le_rfl [] .getcWait
  refine ⟨fun b rest hin => ?_, fun rest hin => ?_⟩
  · have hwait := step_getcWait_byte (s := s.fetch.served 1 [] .getcWait) hready.running hno' rfl hin
    refine ⟨_, (steps_of_step 1 htrap).trans (steps_one hwait), ?_⟩
    exact ⟨(State.reg_setReg_self _ _ _).trans (zextByte_eq_ofNat b), rfl, rfl, by simp [State.served], hready.running, rfl,
      ⟨rfl, rfl, rfl⟩, rfl, rfl, rfl, fun _ hr => State.reg_setReg_ne _ _ hr, fun _ => rfl, rfl, rfl⟩
  · have hwait := step_getcWait_eof (s := s.fetch.served 1 [] .getcWait) hready.running hno' rfl hin
    refine ⟨_, (steps_of_step 1 htrap).trans (steps_one hwait), ?_⟩
    exact ⟨rfl, rfl, rfl, BitVec.add_sub_cancel s.pc 1#16, rfl, rfl, ⟨rfl, rfl, by simp [State.served]⟩,
      rfl, rfl, rfl, fun _ _ => rfl, fun _ => rfl, rfl, rfl⟩

/-- Settles O35: the TRAP's step and OUT_EMIT's. -/
theorem outEmitsTheLowByteOfR0 : Obligations.OutEmitsTheLowByteOfR0 := by
  intro s hready hno hdec
  have htrap := step_trap hready hdec rfl rfl
  have hemit := step_outEmit (s := s.fetch.served 1 [] .outEmit) hready.running (hno.served_fetch le_rfl _ _) rfl
  rw [State.served_served] at hemit
  refine ⟨_, (steps_of_step 1 htrap).trans (steps_one hemit), ?_, rfl, rfl, rfl, hready.running, rfl, ⟨rfl, rfl, rfl⟩,
    serviceKeeps_served s _ _ _⟩
  rw [← lowByte_eq_ofNat]
  rfl

end Sys2Proof.Machine

/-! SUPPORT for 43_trap.md section 3. The services with a loop, from the fetch of the TRAP to their end, as one run each (R155 to
R158). -/

namespace Sys2Proof.Machine

/-! ### From the fetch to the last step of the loop -/

section
variable {s : State} (hready : s.ReadyToFetch)
include hready

/-- A TRAP's step and then `k` steps of its service. -/
theorem steps_trap {i : Instr} {code : BitVec 8} {svc : Service} {k : Nat} {bs : List Byte} {d : DState}
    (hdec : decode (s.memRead s.pc) = i) (hi : Instr.trapCode i = some code) (hsvc : serviceOf code = some svc)
    (hloop : steps k (s.fetch.served 1 [] (Service.initialState svc s)) =
      .next ((s.fetch.served 1 [] (Service.initialState svc s)).served k bs d)) :
    steps (k + 1) s = .next (s.fetch.served (k + 1) bs d) := by
  rw [steps_of_step k (step_trap hready hdec hi hsvc), hloop, State.served_served, List.nil_append, Nat.add_comm]

/-- PUTS up to the cell after `n` non-zero ones (R155). -/
theorem steps_trapPuts {n : Nat} (hno : s.NoAbortFor (n + 1)) (hdec : decode (s.memRead s.pc) = .trapPuts)
    (h : ∀ k, k < n → s.memRead (s.reg 0 + BitVec.ofNat 16 k) ≠ 0x0000#16) :
    steps (n + 1) s =
      .next (s.fetch.served (n + 1) ((s.cells (s.reg 0) n).map lowByte) (.putsScan (s.reg 0 + BitVec.ofNat 16 n))) := by
  have hno' : (s.fetch.served 1 [] (.putsScan (s.reg 0))).NoAbortFor n :=
    hno.served_fetch (by omega) _ _
  exact steps_trap hready hdec rfl rfl (steps_putsScan hready.running rfl hno' h)

/-- PUTSP up to the cell after `n` full ones (R157). -/
theorem steps_trapPutsp {n : Nat} (hno : s.NoAbortFor (2 * n + 1)) (hdec : decode (s.memRead s.pc) = .trapPutsp)
    (h : ∀ k, k < n → lowByte (s.memRead (s.reg 0 + BitVec.ofNat 16 k)) ≠ 0x00#8 ∧
      highByte (s.memRead (s.reg 0 + BitVec.ofNat 16 k)) ≠ 0x00#8) :
    steps (2 * n + 1) s =
      .next (s.fetch.served (2 * n + 1) ((s.cells (s.reg 0) n).flatMap cellBytes) (.putspLo (s.reg 0 + BitVec.ofNat 16 n))) := by
  have hno' : (s.fetch.served 1 [] (.putspLo (s.reg 0))).NoAbortFor (2 * n) :=
    hno.served_fetch (by omega) _ _
  exact steps_trap hready hdec rfl rfl (steps_putspLo hready.running rfl hno' h)

/-- IN up to its wait: the whole prompt is out (R156). -/
theorem steps_trapIn (hno : s.NoAbortFor (s.promptText.length + 2)) (hdec : decode (s.memRead s.pc) = .trapIn) :
    steps (s.promptText.length + 2) s = .next (s.fetch.served (s.promptText.length + 2) s.promptText .inWait) := by
  have hno' : (s.fetch.served 1 [] (.inPrompt 0)).NoAbortFor s.promptText.length :=
    hno.served_fetch (by omega) _ _
  have hprompt := steps_trap hready hdec rfl rfl (steps_inPrompt hready.running rfl hno')
  have hend := step_inPrompt_end (s := s.fetch.served (s.promptText.length + 1) s.promptText (.inPrompt s.promptText.length))
    hready.running (hno.served_fetch (by omega) _ _) rfl (List.getElem?_eq_none le_rfl)
  rw [State.served_served, List.append_nil] at hend
  exact (steps_add 1 hprompt).trans (steps_one hend)

/-- HALT up to its last step: the whole notice is out (R158). -/
theorem steps_trapHalt (hno : s.NoAbortFor (s.noticeText.length + 1)) (hdec : decode (s.memRead s.pc) = .trapHalt) :
    steps (s.noticeText.length + 1) s =
      .next (s.fetch.served (s.noticeText.length + 1) s.noticeText (.haltNotice s.noticeText.length)) := by
  have hno' : (s.fetch.served 1 [] (.haltNotice 0)).NoAbortFor s.noticeText.length :=
    hno.served_fetch (by omega) _ _
  exact steps_trap hready hdec rfl rfl (steps_haltNotice (s := s.fetch.served 1 [] (.haltNotice 0)) hready.running rfl hno')

end

/-! ### The settled statements -/

/-- Settles O36: the TRAP, one step for each character, and one for the zero cell. -/
theorem putsPrintsUpToTheZeroCell : Obligations.PutsPrintsUpToTheZeroCell := by
  intro s cs hready hno hdec hcells hzero
  have hcs : cs = s.cells (s.reg 0) cs.length := State.eq_cells fun k hk => (hcells k hk).1
  have hscan := steps_trapPuts (n := cs.length) hready (hno.mono (by omega)) hdec fun k hk => (hcells k hk).1 ▸ (hcells k hk).2
  have hend := step_putsScan_zero (s := s.fetch.served (cs.length + 1) ((s.cells (s.reg 0) cs.length).map lowByte) _)
    hready.running (hno.served_fetch (by omega) _ _) rfl hzero
  refine ⟨_, (steps_add 1 hscan).trans (steps_one hend), ?_⟩
  rw [State.served_served, ← hcs, List.append_nil]
  refine ⟨?_, rfl, rfl, rfl, hready.running, rfl, ⟨rfl, rfl, rfl⟩, serviceKeeps_served s _ _ _⟩
  exact congrArg (s.output ++ ·) (List.map_congr_left fun c _ => lowByte_eq_ofNat c)

/-- Settles O37: every cell is one more character of the scan. -/
theorem putsWithoutTerminatorNeverEnds : Obligations.PutsWithoutTerminatorNeverEnds := by
  intro s a k he hd hno hmem
  exact ⟨_, steps_putsScan he hd hno fun _ _ => hmem _, he, rfl, by simp [State.served, State.cells]⟩

/-- Settles O38: the TRAP, the prompt, the wait, and with a byte the echo. -/
theorem inPromptsReadsAndEchoes : Obligations.InPromptsReadsAndEchoes := by
  intro s hready hno hdec
  have hprompt := steps_trapIn hready (hno.mono (by omega)) hdec
  generalize hw : s.fetch.served (s.promptText.length + 2) s.promptText .inWait = w at hprompt
  have hnow : w.NoAbortFor 2 := hw ▸ hno.served_fetch (by omega) _ _
  have hew : w.estate = .running := hw ▸ hready.running
  have hdw : w.dstate = .inWait := hw ▸ rfl
  have hinw : w.input = s.input := hw ▸ rfl
  refine ⟨fun b rest hin => ?_, fun rest hin => ?_⟩
  · have hwait := step_inWait_byte hew (hnow.mono (by omega)) hdw (hinw.trans hin)
    have hecho := step_inEcho (s := (w.consume b rest).served 1 [] (.inEcho b)) hew
      (State.NoAbortFor.served (s := w.consume b rest) (k := 1) hnow _ _) rfl
    refine ⟨_, (steps_add 2 hprompt).trans ((steps_of_step 1 hwait).trans (steps_one hecho)), ?_⟩
    subst hw
    exact ⟨by simp [State.served], (State.reg_setReg_self _ _ _).trans (zextByte_eq_ofNat b), rfl, rfl, hready.running, rfl,
      ⟨rfl, rfl, rfl⟩, rfl, rfl, rfl, fun _ hr => State.reg_setReg_ne _ _ hr, fun _ => rfl, rfl, rfl⟩
  · have hwait := step_inWait_eof hew (hnow.mono (by omega)) hdw (hinw.trans hin)
    refine ⟨_, (steps_add 1 hprompt).trans (steps_one hwait), ?_⟩
    subst hw
    exact ⟨rfl, rfl, rfl, rfl, rfl, BitVec.add_sub_cancel s.pc 1#16, rfl, rfl, rfl, rfl, rfl, fun _ _ => rfl, fun _ => rfl, rfl,
      rfl⟩

/-- Settles O39: the TRAP, two steps for each full cell, and one or two for the last. -/
theorem putspPrintsUpToTheZeroByte : Obligations.PutspPrintsUpToTheZeroByte := by
  intro s cs z hready hno hdec hcells hz hzero
  have hcs : cs = s.cells (s.reg 0) cs.length := State.eq_cells fun k hk => (hcells k hk).1
  have hfull := steps_trapPutsp (n := cs.length) hready (hno.mono (by omega)) hdec fun k hk => (hcells k hk).1 ▸ (hcells k hk).2
  rw [← hcs] at hfull
  generalize hw : s.fetch.served (2 * cs.length + 1) (cs.flatMap cellBytes) _ = w at hfull
  have hnow : w.NoAbortFor 2 := hw ▸ hno.served_fetch (by omega) _ _
  have hew : w.estate = .running := hw ▸ hready.running
  have hdw : w.dstate = .putspLo (s.reg 0 + BitVec.ofNat 16 cs.length) := hw ▸ rfl
  have hmem : w.memRead (s.reg 0 + BitVec.ofNat 16 cs.length) = z := hw ▸ hz
  by_cases hlow : lowByte z = 0#8
  · have hend := step_putspLo_zero hew (hnow.mono (by omega)) hdw (hmem.symm ▸ hlow)
    refine ⟨2 * cs.length + 1 + 1, _, by omega, (steps_add 1 hfull).trans (steps_one hend), ?_⟩
    subst hw
    rw [State.served_served, if_pos hlow]
    exact ⟨(List.append_assoc _ _ _).symm, rfl, rfl, rfl, hready.running, rfl, ⟨rfl, rfl, rfl⟩, serviceKeeps_served s _ _ _⟩
  · have hhigh : highByte z = 0#8 := hzero.resolve_left hlow
    have hlo := step_putspLo_char hew (hnow.mono (by omega)) hdw (hmem.symm ▸ hlow)
    rw [hmem] at hlo
    have hend := step_putspHi_zero (s := w.served 1 [lowByte z] (.putspHi (s.reg 0 + BitVec.ofNat 16 cs.length) z)) hew
      (State.NoAbortFor.served (k := 1) hnow _ _) rfl hhigh
    refine ⟨2 * cs.length + 1 + 2, _, by omega, (steps_add 2 hfull).trans ((steps_of_step 1 hlo).trans (steps_one hend)), ?_⟩
    subst hw
    rw [State.served_served, State.served_served, if_neg hlow, List.append_nil]
    exact ⟨(List.append_assoc _ _ _).symm, rfl, rfl, rfl, hready.running, rfl, ⟨rfl, rfl, rfl⟩, serviceKeeps_served s _ _ _⟩

/-- Settles O40: the TRAP, one step for each byte of the notice, and the stop. -/
theorem haltEmitsTheNoticeAndStops : Obligations.HaltEmitsTheNoticeAndStops := by
  intro s hready hno hdec
  have hnotice := steps_trapHalt hready (hno.mono (by omega)) hdec
  have hend := step_haltNotice_end (s := s.fetch.served (s.noticeText.length + 1) s.noticeText (.haltNotice s.noticeText.length))
    hready.running (hno.served_fetch (by omega) _ _) rfl (List.getElem?_eq_none le_rfl)
  refine ⟨_, (steps_add 1 hnotice).trans (steps_one hend), ?_⟩
  exact ⟨rfl, by simp [State.served], rfl, rfl, rfl, rfl, ⟨rfl, rfl, rfl⟩,
    ⟨rfl, rfl, rfl, fun _ _ => rfl, fun _ => rfl, rfl, rfl⟩, rfl⟩

end Sys2Proof.Machine
